-- ==== Sys2Proof/Word.lean ====
section
/-! DEFINITION. The word types of the 4Omni CORE (00_scope R7, R8, R9): frame bytes, 16-bit codes and operands, 32-bit host words and identifiers. -/

namespace Sys2Proof

/-- A frame byte: `int8`, held as its 8-bit pattern (R8, R60). -/
abbrev Byte := BitVec 8

/-- A 16-bit register value or code: `int16`, held as its 16-bit pattern (R7, R8). -/
abbrev Code := BitVec 16

/-- A 32-bit host word, command word or frame identifier: `uint32` (R7, R8). -/
abbrev Word := BitVec 32

end Sys2Proof
end

