-- ==== Sys2Proof/Syntax.lean ====
section
/-! DEFINITION. The command set of the 4Omni CORE as syntax: one constructor per row of the opcode map (30_encoding R83). -/

namespace Sys2Proof

/-- A command with its field operands (R82): `sel` the frame-select value, `idx` the byte index, `a` the motor
address, all zero-extended fields of the word. Register operands are read from ARG when the command executes. -/
inductive Instr where
  /-- no operation (R89) -/
  | nop
  /-- affine fixed-point encode (R102) -/
  | enc
  /-- big-endian split of a code into two bytes (R103) -/
  | split
  /-- join two bytes into a code (R104) -/
  | join
  /-- read one frame byte (R121) -/
  | fget (sel idx : Nat)
  /-- write one frame byte (R122) -/
  | fset (sel idx : Nat)
  /-- read a frame's identifier (R123) -/
  | fid (sel : Nat)
  /-- create a fresh frame in RXF (R124) -/
  | fnew (sel : Nat)
  /-- byte offsets of a motor channel (R141) -/
  | offs (a : Nat)
  /-- encode a speed percentage (R144) -/
  | encspd
  /-- offer RXF to one channel (R146) -/
  | absorb (a : Nat)
  /-- telemetry angle (R161) -/
  | tang (a : Nat)
  /-- telemetry angular velocity (R162) -/
  | trpm (a : Nat)
  /-- telemetry current (R163) -/
  | tcur (a : Nat)
  /-- telemetry temperature (R164) -/
  | ttmp (a : Nat)
  /-- holonomic translation (R184) -/
  | shift
  /-- rotation in place (R185) -/
  | turn
  /-- diagnostic two-wheel drive (R186) -/
  | tstmv
  /-- assemble TXF and hand it to the transport (R188) -/
  | send
  /-- dispatch RXF to the four channels (R190) -/
  | fdbk
deriving DecidableEq, Repr

end Sys2Proof
end

