-- ==== Sys2Proof/WellFormed.lean ====
section
/-! DEFINITION. Which terms of Instr a command word can carry: every field operand fits its field (30_encoding R80, R82). -/

namespace Sys2Proof

/-- The 3-bit SEL field holds `sel`. -/
abbrev selFits (sel : Nat) : Prop := sel < 8

/-- The 4-bit N field holds `n`, a byte index or a motor address. -/
abbrev nFits (n : Nat) : Prop := n < 16

/-- A command a word can carry. A field value that fits but that the command does not accept (sel 7, idx 8, a 0) is
well-formed: the command exists and raises its error (R84). -/
def Instr.wf : Instr → Bool
  | .nop => true
  | .enc => true
  | .split => true
  | .join => true
  | .fget sel idx => decide (selFits sel ∧ nFits idx)
  | .fset sel idx => decide (selFits sel ∧ nFits idx)
  | .fid sel => decide (selFits sel)
  | .fnew sel => decide (selFits sel)
  | .offs a => decide (nFits a)
  | .encspd => true
  | .absorb a => decide (nFits a)
  | .tang a => decide (nFits a)
  | .trpm a => decide (nFits a)
  | .tcur a => decide (nFits a)
  | .ttmp a => decide (nFits a)
  | .shift => true
  | .turn => true
  | .tstmv => true
  | .send => true
  | .fdbk => true

/-- `Instr.wf` as a decidable proposition. -/
abbrev Instr.WellFormed (i : Instr) : Prop := i.wf = true

end Sys2Proof
end

