-- ==== Sys2Proof/Decode.lean ====
section
/-! DEFINITION. Command words to commands and back (30_encoding R80 to R85): the opcode map as rows of match and mask, a total decoder that rejects by name, and the encoder. -/

namespace Sys2Proof

/-- Why a word selects no row of the opcode map (R84). The block reports each of them as IllegalCommand; the three names
are the model's own. -/
inductive DecodeError where
  /-- OPC names no command. -/
  | unknownOpcode
  /-- OPC names a command and RSV, bits 23:7, is not 0. -/
  | reservedBits
  /-- OPC names a command whose class does not use a field that is not 0. -/
  | unusedField
deriving DecidableEq, Repr

/-- One row of the opcode map (R83): `w` selects it when `w &&& mask = code`. `build` takes the SEL and N fields. -/
structure OpRow where
  code : Word
  mask : Word
  build : Nat → Nat → Instr

/-- OPC, bits 31:24 (R80). -/
def opcOf (w : Word) : BitVec 8 := w.extractLsb' 24 8

/-- RSV, bits 23:7 (R80). -/
def rsvOf (w : Word) : BitVec 17 := w.extractLsb' 7 17

/-- SEL, bits 6:4, zero-extended (R80, R82). -/
def selOf (w : Word) : Nat := (w.extractLsb' 4 3).toNat

/-- N, bits 3:0, zero-extended: the byte index or the motor address (R80, R82). -/
def nOf (w : Word) : Nat := (w.extractLsb' 0 4).toNat

/-- The masks of the four classes (R81). -/
def maskZ : Word := 0xFFFFFFFF
def maskA : Word := 0xFFFFFFF0
def maskF : Word := 0xFFFFFF80
def maskS : Word := 0xFFFFFF8F

/-- The codec and frame rows of the opcode map (R83). -/
def opRowsLow : List OpRow :=
  [ ⟨0x00000000, maskZ, fun _ _ => .nop⟩,
    ⟨0x01000000, maskZ, fun _ _ => .enc⟩,
    ⟨0x02000000, maskZ, fun _ _ => .split⟩,
    ⟨0x03000000, maskZ, fun _ _ => .join⟩,
    ⟨0x10000000, maskF, fun sel n => .fget sel n⟩,
    ⟨0x11000000, maskF, fun sel n => .fset sel n⟩,
    ⟨0x12000000, maskS, fun sel _ => .fid sel⟩,
    ⟨0x13000000, maskS, fun sel _ => .fnew sel⟩ ]

/-- The channel, telemetry and drive rows of the opcode map (R83). -/
def opRowsHigh : List OpRow :=
  [ ⟨0x20000000, maskA, fun _ n => .offs n⟩,
    ⟨0x21000000, maskZ, fun _ _ => .encspd⟩,
    ⟨0x22000000, maskA, fun _ n => .absorb n⟩,
    ⟨0x30000000, maskA, fun _ n => .tang n⟩,
    ⟨0x31000000, maskA, fun _ n => .trpm n⟩,
    ⟨0x32000000, maskA, fun _ n => .tcur n⟩,
    ⟨0x33000000, maskA, fun _ n => .ttmp n⟩,
    ⟨0x40000000, maskZ, fun _ _ => .shift⟩,
    ⟨0x41000000, maskZ, fun _ _ => .turn⟩,
    ⟨0x42000000, maskZ, fun _ _ => .tstmv⟩,
    ⟨0x43000000, maskZ, fun _ _ => .send⟩,
    ⟨0x44000000, maskZ, fun _ _ => .fdbk⟩ ]

/-- The opcode map (R83), in the table's order. -/
def opRows : List OpRow := opRowsLow ++ opRowsHigh

/-- A word selects a row (R83). -/
def OpRow.selects (r : OpRow) (w : Word) : Bool := w &&& r.mask == r.code

/-- Why a word that selects no row is illegal (R84): its OPC is unassigned, or RSV is not 0, or an unused field is not 0. -/
def rejection (w : Word) : DecodeError :=
  if opRows.any (fun r => opcOf r.code == opcOf w) then
    if rsvOf w == 0 then .unusedField else .reservedBits
  else .unknownOpcode

/-- The decoder (R83 to R86): it depends on the word alone. -/
def decode (w : Word) : Except DecodeError Instr :=
  match opRows.find? (fun r => r.selects w) with
  | some r => .ok (r.build (selOf w) (nOf w))
  | none => .error (rejection w)

/-- A class F word: OPC, `sel << 4` and `idx` (R81, R121). -/
def wordF (code : Word) (sel idx : Nat) : Word :=
  code ||| (BitVec.ofNat 32 sel <<< 4) ||| BitVec.ofNat 32 idx

/-- A class S word: OPC and `sel << 4` (R81, R123). -/
def wordS (code : Word) (sel : Nat) : Word := code ||| (BitVec.ofNat 32 sel <<< 4)

/-- A class A word: OPC and the motor address (R81, R141). -/
def wordA (code : Word) (a : Nat) : Word := code ||| BitVec.ofNat 32 a

/-- The command word of a well-formed command (R81 to R83). -/
def encode : Instr → Word
  | .nop => 0x00000000
  | .enc => 0x01000000
  | .split => 0x02000000
  | .join => 0x03000000
  | .fget sel idx => wordF 0x10000000 sel idx
  | .fset sel idx => wordF 0x11000000 sel idx
  | .fid sel => wordS 0x12000000 sel
  | .fnew sel => wordS 0x13000000 sel
  | .offs a => wordA 0x20000000 a
  | .encspd => 0x21000000
  | .absorb a => wordA 0x22000000 a
  | .tang a => wordA 0x30000000 a
  | .trpm a => wordA 0x31000000 a
  | .tcur a => wordA 0x32000000 a
  | .ttmp a => wordA 0x33000000 a
  | .shift => 0x40000000
  | .turn => 0x41000000
  | .tstmv => 0x42000000
  | .send => 0x43000000
  | .fdbk => 0x44000000

/-- The command a table row's word decodes to. A command is one 32-bit word, so bits above `nbits` are 0 and bits above
31 do not exist (R80, R85). -/
def decodeTableWord (nbits w : Nat) : Option Instr :=
  match decode (BitVec.ofNat 32 (w % 2 ^ nbits)) with
  | .ok i => some i
  | .error _ => none

end Sys2Proof
end

