-- ==== Sys2Proof/Config.lean ====
section
/-! DEFINITION. The implementation parameters of 00_scope R6 and their values for this hardware. -/

namespace Sys2Proof

/-- `ENC_ROUND` (R6, R100): how an exact image becomes an integer code. -/
inductive Rounding where
  | trunc   -- toward zero
  | floor   -- toward minus infinity
deriving DecidableEq, Repr

/-- `OVF_POLICY` (R6, R101): what an image outside its codomain does. -/
inductive OvfPolicy where
  | error   -- RangeOverflow
  | clamp   -- saturate
deriving DecidableEq, Repr

/-- The parameters the model takes as arguments (R6). Nothing changes them at run time. -/
structure Params where
  /-- `PCT_FRAC`: fraction bits of a speed-percentage operand. -/
  pctFrac : Nat
  /-- `ENC_ROUND`. -/
  encRound : Rounding
  /-- `OVF_POLICY`. -/
  ovfPolicy : OvfPolicy
  /-- `TX_ID`: identifier of the outgoing frame. -/
  txId : Word
  /-- `TLM_BASE_ID`: base telemetry identifier. -/
  tlmBaseId : Word
deriving DecidableEq, Repr

/-- The values R6 gives for this hardware. -/
def Config.params : Params :=
  { pctFrac := 8, encRound := .trunc, ovfPolicy := .error, txId := 0x200, tlmBaseId := 0x200 }

end Sys2Proof
end

