-- ==== Sys2Proof/Machine/Ident.lean ====
section
/-! DEFINITION. The telemetry identifiers of the four motor channels (42_channel R143). -/

namespace Sys2Proof.Machine

/-- `tid(a) = (TLM_BASE_ID + a) mod 2^32` for channel address `a` (R143). -/
def tid (p : Params) (a : Nat) : Word := p.tlmBaseId + BitVec.ofNat 32 a

/-- The telemetry identifier of the channel held at entry `c`, whose address is `c + 1` (R33, R143). -/
def tidOf (p : Params) (c : Fin 4) : Word := tid p (c.val + 1)

end Sys2Proof.Machine
end

