-- ==== Sys2Proof/Machine/State.lean ====
section
/-! DEFINITION. The state: the block exactly as 10_state R20 lists it, the parameters of 00_scope R6, and the external agents' pending steps and records as plain data (45_ports R220, R228). Reset values: 70_reset R271. -/

namespace Sys2Proof.Machine

/-- The codes ERR can hold (60_exceptions R241, 10_state R27; values 7 to 15 are never written). -/
inductive ErrCode where
  | ok | domainError | rangeOverflow | indexOutOfBounds | identifierMismatch | illegalCommand | txBusy
deriving DecidableEq, Repr

/-- A frame: an identifier and exactly 8 signed bytes (10_state R34). -/
structure Frame where
  id : Word
  b : Vector Byte 8
deriving DecidableEq, Repr

/-- A frame created zero-filled with its identifier (R34, R124, R271). -/
def Frame.zero (id : Word) : Frame := ⟨id, #v[0, 0, 0, 0, 0, 0, 0, 0]⟩

/-- The block's state, the tuple of R20. Channel `a` in 1..4 is entry `a - 1` of `tlmv`, `spd` and `tlf`. The STATUS
register is the view `Block.status` of `err`, `idmm`, `txpend` and `tlmv`. -/
structure Block where
  /-- last command word written (R25) -/
  cmd : Word
  /-- STATUS.ERR: result of the last command (R27) -/
  err : ErrCode
  /-- STATUS.IDMM: sticky, a feedback frame matched no channel (R28) -/
  idmm : Bool
  /-- STATUS.TXPEND: TXL holds a frame the transport has not taken (R29) -/
  txpend : Bool
  /-- STATUS.TLMV: the channel has absorbed a telemetry frame (R30) -/
  tlmv : Vector Bool 4
  /-- operand registers ARG[0..4] (R21) -/
  arg : Vector Code 5
  /-- result registers RES[0..2] (R22) -/
  res : Vector Code 3
  /-- speed codes of the four channels (R32) -/
  spd : Vector Code 4
  /-- outgoing frame (R35) -/
  txf : Frame
  /-- incoming frame (R37) -/
  rxf : Frame
  /-- last absorbed telemetry frames (R36) -/
  tlf : Vector Frame 4
  /-- send-time copy of TXF (R38) -/
  txl : Frame
deriving DecidableEq, Repr

/-- One step of the host (30_encoding R90, 20_memory R52). `width` is the access width in bits, `offset` the byte offset
in the host register space. -/
inductive HostStep where
  /-- RD: read a register -/
  | read (width offset : Nat)
  /-- WR: write a word to a register -/
  | write (width offset : Nat) (w : Word)
  /-- POLL: repeat RD until `(read & mask) = value` -/
  | poll (offset : Nat) (mask value : Word)
deriving DecidableEq, Repr

/-- One RX delivery `(id, n, r)` with `n` the length of `bytes` and `r` its entries (45_ports R223). -/
structure Delivery where
  id : Word
  bytes : List Byte
deriving DecidableEq, Repr

/-- Who makes the next step (45_ports R220, 70_reset R270). -/
inductive Agent where
  /-- the host (H) -/
  | host
  /-- the transport's transmit side (TTX) -/
  | tx
  /-- the transport's receive side (TRX) -/
  | rx
  /-- the reset input -/
  | resetInput
deriving DecidableEq, Repr

/-- What stands outside the block: the agents' steps still to come and what they have received. -/
structure Env where
  /-- the order in which agents move, next first; unconstrained, so every interleaving is admitted (R67, R220) -/
  schedule : List Agent
  /-- the host's steps still to come, next first (R90) -/
  host : List HostStep
  /-- the deliveries the transport will still make, next first (R223) -/
  rx : List Delivery
  /-- the sent record: frames the transport has taken, oldest first (R228) -/
  sent : List Frame
  /-- the words host reads have returned, oldest first (R51 to R59) -/
  reads : List Word
deriving DecidableEq, Repr

/-- The machine: parameters, block and surroundings. -/
structure State where
  params : Params
  block : Block
  env : Env
deriving DecidableEq, Repr

/-- Why a step stops with a fault. -/
inductive Fault where
  /-- A host access of a width other than 32 bits, at an offset that is not a multiple of 4, or at an unmapped offset
  (R52, R255). Raised by the host's read, write and poll steps. SAFE: the block would go on unchanged with a bus error,
  and the spec says a model faults the step. -/
  | hostAccessError
deriving DecidableEq, Repr

/-- Why an instruction is refused. -/
inductive Refusal where
  /-- Raised by an arm of `exec` whose instruction has no meaning yet; no arm is in this case. SAFE. -/
  | notModelled (mnemonic : String)
deriving DecidableEq, Repr

/-- The block after reset (R271). The parameters are not altered (R272). -/
def Block.reset (p : Params) : Block :=
  { cmd := 0x00000000
    err := .ok
    idmm := false
    txpend := false
    tlmv := #v[false, false, false, false]
    arg := #v[0, 0, 0, 0, 0]
    res := #v[0, 0, 0]
    spd := #v[0, 0, 0, 0]
    txf := Frame.zero p.txId
    rxf := Frame.zero 0
    tlf := #v[Frame.zero (tidOf p 0), Frame.zero (tidOf p 1), Frame.zero (tidOf p 2), Frame.zero (tidOf p 3)]
    txl := Frame.zero p.txId }

/-- Nothing scheduled, nothing sent, nothing read. DESIGN CHOICE (log 2, 4, 5): the surroundings at power-on. -/
def Env.empty : Env := { schedule := [], host := [], rx := [], sent := [], reads := [] }

/-- The machine right after reset, with this hardware's parameters (R6, R271). -/
def State.reset : State :=
  { params := Config.params, block := Block.reset Config.params, env := Env.empty }

end Sys2Proof.Machine
end

