-- ==== Sys2Proof/Machine/Arith.lean ====
section
/-! DEFINITION. Exact integer arithmetic of the block: division and roots (00_scope R10), Round and Fit (40_codec R100, R101), the affine encode (R102), Split and Join (R103, R104), the speed code (42_channel R142) and the wheel code (44_drive R182). -/

namespace Sys2Proof.Machine

/-- Integer square root, one result bit at a time: `bits` bits are left to settle above the settled part `r`. -/
def isqrtBits (n : Nat) : Nat → Nat → Nat
  | 0, r => r
  | bits + 1, r =>
    if (r + 2 ^ bits) * (r + 2 ^ bits) ≤ n then isqrtBits n bits (r + 2 ^ bits) else isqrtBits n bits r

/-- `isqrt(n)`: the largest `k` with `k * k ≤ n` (R10). -/
def isqrt (n : Nat) : Nat := isqrtBits n (n.log2 / 2 + 1) 0

/-- `Round(num / den)` for `den > 0` (R100). -/
def roundDiv (r : Rounding) (num den : Int) : Int :=
  match r with
  | .trunc => num.tdiv den
  | .floor => num.fdiv den

/-- `Fit(num / den, c1, c2)` for `den > 0`, answering the numerator over the same `den` (R101). -/
def fit (pol : OvfPolicy) (num den c1 c2 : Int) : Except ErrCode Int :=
  if min c1 c2 * den ≤ num ∧ num ≤ max c1 c2 * den then .ok num
  else match pol with
    | .error => .error .rangeOverflow
    | .clamp => .ok (if num < min c1 c2 * den then min c1 c2 * den else max c1 c2 * den)

/-- `Round(Fit(num / den, c1, c2))` for `den > 0`. -/
def fitRound (p : Params) (num den c1 c2 : Int) : Except ErrCode Int :=
  match fit p.ovfPolicy num den c1 c2 with
  | .ok n => .ok (roundDiv p.encRound n den)
  | .error e => .error e

/-- The affine encode of the rational value `vn / vd`, `vd > 0`, from domain `[dmin, dmax]` to codomain `[cmin, cmax]`, in
R102's integer form: with a negative denominator both sides are negated. The caller has checked `dmax ≠ dmin`. -/
def affineEncode (p : Params) (vn vd dmin dmax cmin cmax : Int) : Except ErrCode Int :=
  if (dmax - dmin) * vd < 0 then
    fitRound p (-(cmin * ((dmax - dmin) * vd) + (vn - dmin * vd) * (cmax - cmin))) (-((dmax - dmin) * vd)) cmin cmax
  else
    fitRound p (cmin * ((dmax - dmin) * vd) + (vn - dmin * vd) * (cmax - cmin)) ((dmax - dmin) * vd) cmin cmax

/-- `Split(c)`: high byte and low byte of the pattern (R103). -/
def splitCode (c : Code) : Byte × Byte := (c.extractLsb' 8 8, c.extractLsb' 0 8)

/-- `JoinF(h, l)`: the code whose high byte is `h` and low byte `l` (R104). -/
def joinF (h l : Byte) : Code := h ++ l

/-- An integer in `int8` (R8). -/
abbrev isInt8 (v : Int) : Prop := -128 ≤ v ∧ v ≤ 127

/-- `SpeedCode(p)` of the percentage `p = vn / vd`, `vd > 0` (R142): the exact current `20 * p / 100` in the domain
`[-20, 20]` A, encoded to `[-16384, 16384]`, rounded once. -/
def speedCode (p : Params) (vn vd : Int) : Except ErrCode Int :=
  affineEncode p (20 * vn) (100 * vd) (-20) 20 (-16384) 16384

/-- The speed code of an operand `P`, read as the percentage `P / 2^PCT_FRAC` (R142). -/
def operandCode (p : Params) (P : Int) : Except ErrCode Int := speedCode p P (2 ^ p.pctFrac)

/-- `N` of R182. -/
def wheelNum (α β x y S : Int) : Int := 16384 * S * (α * x + β * y)

/-- `D * D * M` of R182, with `D = 100 * 2^PCT_FRAC` and `M = 2 * (x^2 + y^2)`. -/
def wheelDen (p : Params) (x y : Int) : Int :=
  (100 * 2 ^ p.pctFrac) * (100 * 2 ^ p.pctFrac) * (2 * (x * x + y * y))

/-- Round of `t` with `|t| = sqrt(sq / den)` and the sign of `N` (R182): `k` is the floor of `|t|`. -/
def roundRoot (r : Rounding) (N : Int) (sq den : Nat) : Int :=
  if 0 ≤ N then (isqrt (sq / den) : Int)
  else if r = .trunc ∨ isqrt (sq / den) * isqrt (sq / den) * den = sq then -(isqrt (sq / den) : Int)
  else -((isqrt (sq / den) : Int) + 1)

/-- `WheelCode(α, β, x, y, S)` for `(x, y) ≠ (0, 0)` (R182): `Round(Fit(t, -16384, 16384))` with `t = N / (D * sqrt(M))`. -/
def wheelCode (p : Params) (α β x y S : Int) : Except ErrCode Int :=
  if wheelNum α β x y S * wheelNum α β x y S ≤ 16384 * 16384 * wheelDen p x y then
    .ok (roundRoot p.encRound (wheelNum α β x y S) (wheelNum α β x y S * wheelNum α β x y S).toNat (wheelDen p x y).toNat)
  else match p.ovfPolicy with
    | .error => .error .rangeOverflow
    | .clamp => .ok ((wheelNum α β x y S).sign * 16384)

end Sys2Proof.Machine
end

