-- ==== Sys2Proof/Machine/Ops.lean ====
section
/-! DEFINITION. The named operations over registers and frames: one setter per state element, the frame stores (10_state R34, 20_memory R62), the address decoder (42_channel R140), commit and error entry (30_encoding R87, R88, 60_exceptions R244, R247), Absorb, Dispatch and Assemble (R145, R189, R187). -/

namespace Sys2Proof.Machine

/-! ### One setter per element of the block -/

/-- Store the command word (R25). -/
def Block.setCmd (b : Block) (w : Word) : Block := { b with cmd := w }
/-- Write ERR (R27). -/
def Block.setErr (b : Block) (e : ErrCode) : Block := { b with err := e }
/-- Write IDMM (R28). -/
def Block.setIdmm (b : Block) (v : Bool) : Block := { b with idmm := v }
/-- Write TXPEND (R29). -/
def Block.setTxpend (b : Block) (v : Bool) : Block := { b with txpend := v }
/-- Set TLMV of a channel (R30). -/
def Block.setTlmv (b : Block) (c : Fin 4) (v : Bool) : Block := { b with tlmv := b.tlmv.set c v }
/-- Write an operand register (R21). -/
def Block.setArg (b : Block) (i : Fin 5) (v : Code) : Block := { b with arg := b.arg.set i v }
/-- Write a result register (R22). -/
def Block.setRes (b : Block) (i : Fin 3) (v : Code) : Block := { b with res := b.res.set i v }
/-- Write a channel's speed code (R32). -/
def Block.setSpd (b : Block) (c : Fin 4) (v : Code) : Block := { b with spd := b.spd.set c v }
/-- Write the bytes of TXF; its identifier is fixed (R35). -/
def Block.setTxfBytes (b : Block) (v : Vector Byte 8) : Block := { b with txf := { b.txf with b := v } }
/-- Replace RXF (R37). -/
def Block.setRxf (b : Block) (f : Frame) : Block := { b with rxf := f }
/-- Write the bytes of RXF, keeping its identifier (R37, R122). -/
def Block.setRxfBytes (b : Block) (v : Vector Byte 8) : Block := { b with rxf := { b.rxf with b := v } }
/-- Replace a channel's telemetry frame (R36). -/
def Block.setTlf (b : Block) (c : Fin 4) (f : Frame) : Block := { b with tlf := b.tlf.set c f }
/-- Replace TXL (R38). -/
def Block.setTxl (b : Block) (f : Frame) : Block := { b with txl := f }

/-- Put another block into the machine, all else kept. -/
def State.setBlock (s : State) (b : Block) : State := { s with block := b }
/-- Put other surroundings around the machine, all else kept. -/
def State.setEnv (s : State) (e : Env) : State := { s with env := e }

/-! ### Frame stores and their bytes -/

/-- The seven frame stores of R34. -/
inductive Store where
  | txf
  | rxf
  | tlf (c : Fin 4)
  | txl
deriving DecidableEq, Repr

/-- The store a frame-select value names; 7 names none (R34). -/
def store? : Nat → Option Store
  | 0 => some .txf
  | 1 => some .rxf
  | 2 => some (.tlf 0)
  | 3 => some (.tlf 1)
  | 4 => some (.tlf 2)
  | 5 => some (.tlf 3)
  | 6 => some .txl
  | _ => none

/-- The two stores whose bytes FSET may write: TXF and RXF (R34, R120). -/
inductive ByteStore where
  | txf
  | rxf
deriving DecidableEq, Repr

/-- The byte-writable store a frame-select value names (R120). -/
def byteStore? : Nat → Option ByteStore
  | 0 => some .txf
  | 1 => some .rxf
  | _ => none

/-- `FR[s]` (R11, R34). -/
def Block.frame (b : Block) : Store → Frame
  | .txf => b.txf
  | .rxf => b.rxf
  | .tlf c => b.tlf[c]
  | .txl => b.txl

/-- A byte index of a frame, 0 to 7 (R120). -/
def byteIndex? (idx : Nat) : Option (Fin 8) :=
  if h : idx < 8 then some ⟨idx, h⟩ else none

/-- `MemRead((s, i), 1)` (R62). -/
def memRead (b : Block) (st : Store) (i : Fin 8) : Byte := (b.frame st).b[i]

/-- `MemWrite((s, i), 1, v)` on a store that allows it (R62, R120). -/
def memWrite (b : Block) (st : ByteStore) (i : Fin 8) (v : Byte) : Block :=
  match st with
  | .txf => b.setTxfBytes (b.txf.b.set i v)
  | .rxf => b.setRxfBytes (b.rxf.b.set i v)

/-! ### Motor channels -/

/-- The channel entry of a motor address; an address outside 1..4 has none (R140). -/
def channel? (a : Nat) : Option (Fin 4) :=
  if h : 1 ≤ a ∧ a ≤ 4 then some ⟨a - 1, by omega⟩ else none

/-- The address of a channel entry (R33). -/
def addressOf (c : Fin 4) : Nat := c.val + 1

/-- The first offset of a channel: its high byte (R140). -/
def offsetHi (c : Fin 4) : Fin 8 := ⟨2 * c.val, by omega⟩

/-- The second offset of a channel: its low byte (R140). -/
def offsetLo (c : Fin 4) : Fin 8 := ⟨2 * c.val + 1, by omega⟩

/-- `MemRead16((s, 2k))`: the big-endian field at bytes 2k and 2k+1 (R61, R62). -/
def memRead16 (b : Block) (st : Store) (k : Fin 4) : Code :=
  joinF (memRead b st (offsetHi k)) (memRead b st (offsetLo k))

/-- The four channels in address order (R33). -/
def channels : List (Fin 4) := [0, 1, 2, 3]

/-! ### How a command ends -/

/-- What a command body ends with (R11, R12): the block with every collected write, or an error. -/
inductive Result where
  /-- the body executed `raise E` -/
  | raise (e : ErrCode)
  /-- the body ended without a report -/
  | done (b : Block)
  /-- the body ended with `diag E` -/
  | diag (e : ErrCode) (b : Block)
deriving DecidableEq, Repr

/-- Error entry: ERR takes the code, everything else is as before the command (R87, R244). The word in CMD was stored at
issue. There is no return from an error: the next command runs normally (R245). -/
def enterError (s : State) (e : ErrCode) : State := s.setBlock (s.block.setErr e)

/-- Commit of a command body that ran on the block of `s` (R87, R88, R247). -/
def commit (s : State) : Result → Host.Outcome State Fault Refusal
  | .raise e => .next (enterError s e)
  | .done b => .next (s.setBlock (b.setErr .ok))
  | .diag e b => .next (s.setBlock (b.setErr e))

/-- A body that needs one code: it goes on with the code, or raises the error. -/
def withCode (r : Except ErrCode Int) (go : Int → Result) : Result :=
  match r with
  | .ok c => go c
  | .error e => .raise e

/-! ### Feedback filter, dispatch, assembly -/

/-- `Absorb(a, F)` for the channel at entry `c`: the frame is taken whole when its identifier is the channel's (R145). -/
def absorb (p : Params) (c : Fin 4) (f : Frame) (b : Block) : Block × Bool :=
  if f.id = tidOf p c then ((b.setTlf c f).setTlmv c true, true) else (b, false)

/-- One round of Dispatch's loop (R189). -/
def dispatchStep (p : Params) (f : Frame) (acc : Block × Nat) (c : Fin 4) : Block × Nat :=
  ((absorb p c f acc.1).1, if (absorb p c f acc.1).2 then addressOf c else acc.2)

/-- The loop of Dispatch: each channel is offered the frame exactly once; `m` is the matching address, or 0 (R189). -/
def offerAll (p : Params) (f : Frame) (b : Block) : Block × Nat :=
  channels.foldl (dispatchStep p f) (b, 0)

/-- `Dispatch(F)` (R189). -/
def dispatch (p : Params) (f : Frame) (b : Block) : Block × Nat :=
  if (offerAll p f b).2 = 0 then ((offerAll p f b).1.setIdmm true, 0) else offerAll p f b

/-- Write one code into a frame's bytes at its channel's offsets, high byte first (R61, R187). -/
def putCode (v : Vector Byte 8) (c : Fin 4) (code : Code) : Vector Byte 8 :=
  (v.set (offsetHi c) (splitCode code).1).set (offsetLo c) (splitCode code).2

/-- `Assemble()`: the bytes of TXF after each channel's code is written at its offsets (R187). -/
def assemble (b : Block) : Vector Byte 8 :=
  channels.foldl (fun v c => putCode v c b.spd[c]) b.txf.b

end Sys2Proof.Machine
end

