-- ==== Sys2Proof/Machine/Operands.lean ====
section
/-! DEFINITION. The operand forms of the commands (30_encoding R82): int16 register operands, byte operands, percentage operands, identifier operands, and how results are held in the int16 result registers. -/

namespace Sys2Proof.Machine

/-- `ARG[i]` as an integer (R11, R21). -/
def argInt (b : Block) (i : Fin 5) : Int := b.arg[i].toInt

/-- `ARG[i]` as a byte operand; none when it is outside `int8` (R104, R122). -/
def argByte? (b : Block) (i : Fin 5) : Option Byte :=
  if isInt8 (argInt b i) then some (BitVec.ofInt 8 (argInt b i)) else none

/-- The identifier operand: `{pat_16(ARG[1]), pat_16(ARG[0])}` (R124). -/
def argIdent (b : Block) : Word := b.arg[1] ++ b.arg[0]

/-- An integer result held in a 16-bit register (R8, R22). -/
def codeOf (v : Int) : Code := BitVec.ofInt 16 v

/-- An `int8` held in a 16-bit register (R121, R164). -/
def codeOfByte (v : Byte) : Code := v.signExtend 16

/-- A flag held in a 16-bit register: 1 or 0 (R146, R161). -/
def codeOfFlag (v : Bool) : Code := if v then 1 else 0

/-- Identifier bits 15:0 (R123). -/
def idLow (id : Word) : Code := id.extractLsb' 0 16

/-- Identifier bits 31:16 (R123). -/
def idHigh (id : Word) : Code := id.extractLsb' 16 16

end Sys2Proof.Machine
end

