-- ==== Sys2Proof/Machine/Channel.lean ====
section
/-! DEFINITION. The meanings of OFFS, ENCSPD and ABSORB (42_channel R141, R144, R146). -/

namespace Sys2Proof.Machine

/-- OFFS: the two byte offsets of a motor channel (R140, R141). -/
def execOffs (a : Nat) (s : State) : Host.Outcome State Fault Refusal :=
  commit s
    (match channel? a with
     | none => .raise .indexOutOfBounds
     | some c => .done ((s.block.setRes 0 (codeOf (offsetHi c).val)).setRes 1 (codeOf (offsetLo c).val)))

/-- ENCSPD: the byte pair and the code of the percentage ARG0 (R142, R144). -/
def execEncspd (s : State) : Host.Outcome State Fault Refusal :=
  commit s
    (withCode (operandCode s.params (argInt s.block 0)) fun c =>
      .done (((s.block.setRes 0 (codeOfByte (splitCode (codeOf c)).1)).setRes 1 (codeOfByte (splitCode (codeOf c)).2)).setRes 2
        (codeOf c)))

/-- ABSORB: RXF offered to one channel; RES0 says whether it was taken (R145, R146). -/
def execAbsorb (a : Nat) (s : State) : Host.Outcome State Fault Refusal :=
  commit s
    (match channel? a with
     | none => .raise .indexOutOfBounds
     | some c =>
       .done ((absorb s.params c s.block.rxf s.block).1.setRes 0 (codeOfFlag (absorb s.params c s.block.rxf s.block).2)))

end Sys2Proof.Machine
end

