-- ==== Sys2Proof/Machine/Codec.lean ====
section
/-! DEFINITION. The meanings of ENC, SPLIT and JOIN (40_codec R102, R103, R104). -/

namespace Sys2Proof.Machine

/-- ENC: value ARG0, domain ARG1 to ARG2, codomain ARG3 to ARG4 (R102). -/
def execEnc (s : State) : Host.Outcome State Fault Refusal :=
  commit s
    (if argInt s.block 2 = argInt s.block 1 then .raise .domainError
     else withCode
       (affineEncode s.params (argInt s.block 0) 1 (argInt s.block 1) (argInt s.block 2) (argInt s.block 3) (argInt s.block 4))
       fun c => .done (s.block.setRes 0 (codeOf c)))

/-- SPLIT: the two bytes of ARG0 (R103). -/
def execSplit (s : State) : Host.Outcome State Fault Refusal :=
  commit s
    (.done ((s.block.setRes 0 (codeOfByte (splitCode s.block.arg[0]).1)).setRes 1 (codeOfByte (splitCode s.block.arg[0]).2)))

/-- JOIN: the code of high byte ARG0 and low byte ARG1, both of which must be `int8` (R104). -/
def execJoin (s : State) : Host.Outcome State Fault Refusal :=
  commit s
    (match argByte? s.block 0, argByte? s.block 1 with
     | some h, some l => .done (s.block.setRes 0 (joinF h l))
     | _, _ => .raise .rangeOverflow)

end Sys2Proof.Machine
end

