-- ==== Sys2Proof/Machine/Control.lean ====
section
/-! DEFINITION. The meaning of NOP (30_encoding R89). -/

namespace Sys2Proof.Machine

/-- NOP changes nothing but ERR, which it clears (R89). -/
def execNop (s : State) : Host.Outcome State Fault Refusal := commit s (.done s.block)

end Sys2Proof.Machine
end

