-- ==== Sys2Proof/Machine/Drive.lean ====
section
/-! DEFINITION. The meanings of SHIFT, TURN, TSTMV, SEND and FDBK (44_drive R180 to R191). -/

namespace Sys2Proof.Machine

/-- All four speed codes at once, in address order FL, BL, BR, FR (R32, R33). -/
def setSpeeds (b : Block) (c1 c2 c3 c4 : Int) : Block :=
  (((b.setSpd 0 (codeOf c1)).setSpd 1 (codeOf c2)).setSpd 2 (codeOf c3)).setSpd 3 (codeOf c4)

/-- SHIFT's wheels with the rows of R183: they change together, or any failure gives RangeOverflow (R184, R243). -/
def shiftWheels (p : Params) (b : Block) (x y S : Int) : Result :=
  match wheelCode p 1 1 x y S, wheelCode p (-1) 1 x y S, wheelCode p (-1) (-1) x y S, wheelCode p 1 (-1) x y S with
  | .ok c1, .ok c2, .ok c3, .ok c4 => .done (setSpeeds b c1 c2 c3 c4)
  | _, _, _, _ => .raise .rangeOverflow

/-- SHIFT: direction ARG0, ARG1 and maximal speed percentage ARG2 (R184). -/
def execShift (s : State) : Host.Outcome State Fault Refusal :=
  commit s
    (if argInt s.block 0 = 0 ∧ argInt s.block 1 = 0 then .raise .domainError
     else shiftWheels s.params s.block (argInt s.block 0) (argInt s.block 1) (argInt s.block 2))

/-- TURN: one code for all four wheels (R185). -/
def execTurn (s : State) : Host.Outcome State Fault Refusal :=
  commit s (withCode (operandCode s.params (argInt s.block 0)) fun c => .done (setSpeeds s.block c c c c))

/-- TSTMV: front-left = +x, back-right = -x, the other two as last commanded (R186). -/
def execTstmv (s : State) : Host.Outcome State Fault Refusal :=
  commit s
    (withCode (operandCode s.params (argInt s.block 0)) fun c1 =>
      withCode (operandCode s.params (-argInt s.block 0)) fun c3 =>
        .done ((s.block.setSpd 0 (codeOf c1)).setSpd 2 (codeOf c3)))

/-- SEND: TXF assembled from the speed codes and copied to the latch; refused while a frame is in flight (R187, R188). -/
def execSend (s : State) : Host.Outcome State Fault Refusal :=
  commit s
    (if s.block.txpend then .raise .txBusy
     else .done (((s.block.setTxfBytes (assemble s.block)).setTxl ⟨s.params.txId, assemble s.block⟩).setTxpend true))

/-- FDBK: RXF dispatched to the four channels; RES0 names the one that took it, and none is reported (R189, R190). -/
def execFdbk (s : State) : Host.Outcome State Fault Refusal :=
  commit s
    (if (dispatch s.params s.block.rxf s.block).2 = 0 then
       .diag .identifierMismatch
         ((dispatch s.params s.block.rxf s.block).1.setRes 0 (codeOf (dispatch s.params s.block.rxf s.block).2))
     else
       .done ((dispatch s.params s.block.rxf s.block).1.setRes 0 (codeOf (dispatch s.params s.block.rxf s.block).2)))

end Sys2Proof.Machine
end

