-- ==== Sys2Proof/Machine/FrameAccess.lean ====
section
/-! DEFINITION. The meanings of FGET, FSET, FID and FNEW (41_frame R120 to R124). -/

namespace Sys2Proof.Machine

/-- FGET: one byte of a frame store, sel checked before idx (R120, R121). -/
def execFget (sel idx : Nat) (s : State) : Host.Outcome State Fault Refusal :=
  commit s
    (match store? sel with
     | none => .raise .illegalCommand
     | some st =>
       match byteIndex? idx with
       | none => .raise .indexOutOfBounds
       | some i => .done (s.block.setRes 0 (codeOfByte (memRead s.block st i))))

/-- FSET: ARG0 to one byte of TXF or RXF; sel, then idx, then the value is checked (R120, R122). -/
def execFset (sel idx : Nat) (s : State) : Host.Outcome State Fault Refusal :=
  commit s
    (match byteStore? sel with
     | none => .raise .illegalCommand
     | some st =>
       match byteIndex? idx with
       | none => .raise .indexOutOfBounds
       | some i =>
         match argByte? s.block 0 with
         | none => .raise .rangeOverflow
         | some v => .done (memWrite s.block st i v))

/-- FID: the identifier of a frame store, low half then high half (R123). -/
def execFid (sel : Nat) (s : State) : Host.Outcome State Fault Refusal :=
  commit s
    (match store? sel with
     | none => .raise .illegalCommand
     | some st =>
       .done ((s.block.setRes 0 (idLow (s.block.frame st).id)).setRes 1 (idHigh (s.block.frame st).id)))

/-- FNEW: a fresh zero-filled RXF with the identifier of ARG0 and ARG1 (R124). -/
def execFnew (sel : Nat) (s : State) : Host.Outcome State Fault Refusal :=
  commit s
    (if sel = 1 then .done (s.block.setRxf (Frame.zero (argIdent s.block))) else .raise .illegalCommand)

end Sys2Proof.Machine
end

