-- ==== Sys2Proof/Machine/Telemetry.lean ====
section
/-! DEFINITION. The meanings of TANG, TRPM, TCUR and TTMP (43_telemetry R160 to R165). -/

namespace Sys2Proof.Machine

/-- A telemetry read: the decoded field of the channel's last frame in RES0 and its TLMV in RES1 (R161 to R165). -/
def readTelemetry (b : Block) (a : Nat) (field : Fin 4 → Code) : Result :=
  match channel? a with
  | none => .raise .indexOutOfBounds
  | some c => .done ((b.setRes 0 (field c)).setRes 1 (codeOfFlag b.tlmv[c]))

/-- TANG: bytes 0 and 1 (R161). -/
def execTang (a : Nat) (s : State) : Host.Outcome State Fault Refusal :=
  commit s (readTelemetry s.block a fun c => memRead16 s.block (.tlf c) 0)

/-- TRPM: bytes 2 and 3 (R162). -/
def execTrpm (a : Nat) (s : State) : Host.Outcome State Fault Refusal :=
  commit s (readTelemetry s.block a fun c => memRead16 s.block (.tlf c) 1)

/-- TCUR: bytes 4 and 5 (R163). -/
def execTcur (a : Nat) (s : State) : Host.Outcome State Fault Refusal :=
  commit s (readTelemetry s.block a fun c => memRead16 s.block (.tlf c) 2)

/-- TTMP: byte 6, signed (R164). -/
def execTtmp (a : Nat) (s : State) : Host.Outcome State Fault Refusal :=
  commit s (readTelemetry s.block a fun c => codeOfByte (memRead s.block (.tlf c) 6))

end Sys2Proof.Machine
end

