-- ==== Sys2Proof/Machine/Dispatch.lean ====
section
/-! DEFINITION. One arm per command: each is one direct call of the command's meaning. CMD already holds the word (30_encoding R86). -/

namespace Sys2Proof.Machine

def exec (i : Instr) (s : State) : Host.Outcome State Fault Refusal :=
  match i with
  | .nop => Sys2Proof.Machine.execNop s
  | .enc => Sys2Proof.Machine.execEnc s
  | .split => Sys2Proof.Machine.execSplit s
  | .join => Sys2Proof.Machine.execJoin s
  | .fget sel idx => Sys2Proof.Machine.execFget sel idx s
  | .fset sel idx => Sys2Proof.Machine.execFset sel idx s
  | .fid sel => Sys2Proof.Machine.execFid sel s
  | .fnew sel => Sys2Proof.Machine.execFnew sel s
  | .offs a => Sys2Proof.Machine.execOffs a s
  | .encspd => Sys2Proof.Machine.execEncspd s
  | .absorb a => Sys2Proof.Machine.execAbsorb a s
  | .tang a => Sys2Proof.Machine.execTang a s
  | .trpm a => Sys2Proof.Machine.execTrpm a s
  | .tcur a => Sys2Proof.Machine.execTcur a s
  | .ttmp a => Sys2Proof.Machine.execTtmp a s
  | .shift => Sys2Proof.Machine.execShift s
  | .turn => Sys2Proof.Machine.execTurn s
  | .tstmv => Sys2Proof.Machine.execTstmv s
  | .send => Sys2Proof.Machine.execSend s
  | .fdbk => Sys2Proof.Machine.execFdbk s

end Sys2Proof.Machine
end

