-- ==== Sys2Proof/Machine/Flags.lean ====
section
/-! DEFINITION. The STATUS register: the numbers of the error codes (60_exceptions R241), the register's view (10_state R26) and what a host write of it does (20_memory R58). -/

namespace Sys2Proof.Machine

/-- The code ERR holds for each result (R241). -/
def ErrCode.code : ErrCode → BitVec 4
  | .ok => 0
  | .domainError => 1
  | .rangeOverflow => 2
  | .indexOutOfBounds => 3
  | .identifierMismatch => 4
  | .illegalCommand => 5
  | .txBusy => 6

/-- The STATUS register (R26): ERR in 3:0, IDMM in 4, TXPEND in 5, TLMV[1..4] in 8 to 11, every other bit 0. -/
def Block.status (b : Block) : Word :=
  0#20 ++ BitVec.ofBool b.tlmv[3] ++ BitVec.ofBool b.tlmv[2] ++ BitVec.ofBool b.tlmv[1] ++ BitVec.ofBool b.tlmv[0] ++
    0#2 ++ BitVec.ofBool b.txpend ++ BitVec.ofBool b.idmm ++ b.err.code

/-- A host write of `w` to STATUS: bit 4 clears IDMM, every other bit is ignored (R58). -/
def writeStatus (b : Block) (w : Word) : Block := if w.getLsbD 4 then b.setIdmm false else b

end Sys2Proof.Machine
end

