-- ==== Sys2Proof/Machine/HostBus.lean ====
section
/-! DEFINITION. The host register space (20_memory R51 to R59): the register map, reads, writes, and command issue (30_encoding R86). -/

namespace Sys2Proof.Machine

/-- The registers of the map (R51). -/
inductive HostReg where
  | cmd
  | status
  | arg (i : Fin 5)
  | res (i : Fin 3)
  | txid
  | tlmbase
deriving DecidableEq, Repr

/-- The register at a byte offset; every offset not listed is unmapped (R51). -/
def hostReg? : Nat → Option HostReg
  | 0x00 => some .cmd
  | 0x04 => some .status
  | 0x08 => some (.arg 0)
  | 0x0C => some (.arg 1)
  | 0x10 => some (.arg 2)
  | 0x14 => some (.arg 3)
  | 0x18 => some (.arg 4)
  | 0x20 => some (.res 0)
  | 0x24 => some (.res 1)
  | 0x28 => some (.res 2)
  | 0x30 => some .txid
  | 0x34 => some .tlmbase
  | _ => none

/-- The register an access reaches: a 32-bit access at a mapped multiple of 4; any other access is an access error (R52). -/
def hostAccess? (width offset : Nat) : Option HostReg :=
  if width = 32 ∧ offset % 4 = 0 then hostReg? offset else none

/-- `zext_32` of a 16-bit register (R55, R56). -/
def zextCode (c : Code) : Word := c.zeroExtend 32

/-- What a host read of a register returns (R25, R26, R31, R55, R56). -/
def readReg (p : Params) (b : Block) : HostReg → Word
  | .cmd => b.cmd
  | .status => b.status
  | .arg i => zextCode b.arg[i]
  | .res i => zextCode b.res[i]
  | .txid => p.txId
  | .tlmbase => p.tlmBaseId

/-- Issue of the command word `w` (R57, R86): CMD takes the word, then the row it selects executes, or IllegalCommand is
raised (R84). -/
def issue (w : Word) (s : State) : Host.Outcome State Fault Refusal :=
  match decode w with
  | .ok i => exec i (s.setBlock (s.block.setCmd w))
  | .error _ => commit (s.setBlock (s.block.setCmd w)) (.raise .illegalCommand)

/-- A host write of `w` to a register (R54, R55, R57, R58). -/
def writeReg (r : HostReg) (w : Word) (s : State) : Host.Outcome State Fault Refusal :=
  match r with
  | .cmd => issue w s
  | .status => .next (s.setBlock (writeStatus s.block w))
  | .arg i => .next (s.setBlock (s.block.setArg i (w.extractLsb' 0 16)))
  | .res _ => .next s
  | .txid => .next s
  | .tlmbase => .next s

/-- The surroundings after the host made its first pending step. -/
def Env.popHost (e : Env) : Env := { e with host := e.host.tail }

/-- The surroundings after the host received a word. -/
def Env.record (e : Env) (w : Word) : Env := { e with reads := e.reads ++ [w] }

/-- The host's next step (R90): a read or a write is made once, a poll stays pending until the masked word matches. -/
def hostTurn (s : State) : Host.Outcome State Fault Refusal :=
  match s.env.host with
  | [] => .next s
  | .read width offset :: _ =>
    match hostAccess? width offset with
    | none => .fault .hostAccessError
    | some r => .next (s.setEnv (s.env.popHost.record (readReg s.params s.block r)))
  | .write width offset w :: _ =>
    match hostAccess? width offset with
    | none => .fault .hostAccessError
    | some r => writeReg r w (s.setEnv s.env.popHost)
  | .poll offset mask value :: _ =>
    match hostAccess? 32 offset with
    | none => .fault .hostAccessError
    | some r =>
      if readReg s.params s.block r &&& mask = value then
        .next (s.setEnv (s.env.popHost.record (readReg s.params s.block r)))
      else .next (s.setEnv (s.env.record (readReg s.params s.block r)))

end Sys2Proof.Machine
end

