-- ==== Sys2Proof/Machine/Ports.lean ====
section
/-! DEFINITION. The transport's events and reset (45_ports R221 to R226, 70_reset R270 to R272). -/

namespace Sys2Proof.Machine

/-- What the TX port presents: TXL while TXPEND is 1, nothing otherwise (R221). -/
def txOffer (b : Block) : Option Frame := if b.txpend then some b.txl else none

/-- The surroundings after the transport took a frame (R222, R228). -/
def Env.recordSent (e : Env) (f : Frame) : Env := { e with sent := e.sent ++ [f] }

/-- TX acceptance: enabled exactly when a frame is offered; it clears TXPEND and TXL keeps its contents (R222). Where it
is not enabled there is no such step, and the machine is as it was. -/
def txTurn (s : State) : Host.Outcome State Fault Refusal :=
  match txOffer s.block with
  | none => .next s
  | some f => .next ((s.setBlock (s.block.setTxpend false)).setEnv (s.env.recordSent f))

/-- Byte `i` of a received frame: the delivered byte, or 0 past `min(n, 8)` (R224). -/
def rxByte (d : Delivery) (i : Nat) : Byte := if i < min d.bytes.length 8 then d.bytes.getD i 0 else 0

/-- `RxFrame(id, n, r)` (R224). -/
def rxFrame (d : Delivery) : Frame :=
  ⟨d.id, #v[rxByte d 0, rxByte d 1, rxByte d 2, rxByte d 3, rxByte d 4, rxByte d 5, rxByte d 6, rxByte d 7]⟩

/-- RX delivery on the block: RXF takes the frame and is dispatched; ERR is not written (R223, R225, R226). -/
def deliver (p : Params) (d : Delivery) (b : Block) : Block :=
  (dispatch p (rxFrame d) (b.setRxf (rxFrame d))).1

/-- The surroundings after the transport made its first pending delivery. -/
def Env.popRx (e : Env) : Env := { e with rx := e.rx.tail }

/-- The receive side's next delivery (R223). -/
def rxTurn (s : State) : Host.Outcome State Fault Refusal :=
  match s.env.rx with
  | [] => .next s
  | d :: _ => .next ((s.setBlock (deliver s.params d s.block)).setEnv s.env.popRx)

/-- The reset event: every element of the block at its reset value; parameters and the sent record stay, and a pending
frame is dropped (R270, R271, R272). -/
def resetTurn (s : State) : Host.Outcome State Fault Refusal := .next (s.setBlock (Block.reset s.params))

end Sys2Proof.Machine
end

