-- ==== Sys2Proof/Machine/Agents.lean ====
section
/-! DEFINITION. Which agent moves (45_ports R220, 20_memory R67): the machine's next step, and how a command word is placed before it. -/

namespace Sys2Proof.Machine

/-- One atomic step of an agent (R66, R220). An agent with nothing to do, or whose event is not enabled, leaves the machine
as it was (R254). -/
def agentTurn (a : Agent) (s : State) : Host.Outcome State Fault Refusal :=
  match a with
  | .host => hostTurn s
  | .tx => txTurn s
  | .rx => rxTurn s
  | .resetInput => resetTurn s

/-- The surroundings after the first agent of the schedule has moved. -/
def Env.popSchedule (e : Env) : Env := { e with schedule := e.schedule.tail }

/-- The step of the agent that moves next; while no agent moves, every element holds its value (R254). -/
def nextStep (s : State) : Host.Outcome State Fault Refusal :=
  match s.env.schedule with
  | [] => .next s
  | a :: _ => agentTurn a (s.setEnv s.env.popSchedule)

/-- The host's next step is the write of `w` to CMD, and the host moves next (R57, R86). -/
def placeCommand (w : Word) (s : State) : State :=
  s.setEnv { s.env with schedule := .host :: s.env.schedule, host := .write 32 0x00 w :: s.env.host }

end Sys2Proof.Machine
end

