-- ==== Sys2Proof/Machine/Step.lean ====
section
/-! DEFINITION. The machine's step, and the state in which the next step issues a given command word. -/

namespace Sys2Proof.Machine

/-- One step: the next agent's (45_ports R220). -/
def step (s : State) : Host.Outcome State Fault Refusal := nextStep s

/-- `s` with the command word `w` as the host's next write to CMD and the host moving next, so that the very next step
issues it. The block is unchanged. -/
def State.withFetchWord (s : State) (nbits w : Nat) : State := placeCommand (BitVec.ofNat 32 (w % 2 ^ nbits)) s

end Sys2Proof.Machine
end

