-- ==== Sys2Proof/Safety.lean ====
section
/-! DEFINITION. What counts as a good state and a safe run: the invariants the spec gives the block and the sent record, and the host steps that make no access error. -/

namespace Sys2Proof.Machine

/-- A speed code within the range of 42_channel R142. -/
abbrev speedOk (c : Code) : Prop := -16384 ≤ c.toInt ∧ c.toInt ≤ 16384

/-- The 16-bit field of a frame at a channel's offsets (20_memory R61, R64). -/
def frameCode (f : Frame) (c : Fin 4) : Code := joinF f.b[offsetHi c] f.b[offsetLo c]

/-- A frame the block may send: the fixed identifier (10_state R35, R38) and four speed codes in range (R32, R187). -/
abbrev outgoingOk (p : Params) (f : Frame) : Prop := f.id = p.txId ∧ ∀ c : Fin 4, speedOk (frameCode f c)

/-- The invariants of the block: the fixed identifiers of TXF, TXL and TLF (R35, R36, R38), speed codes in range (R32), the
latched frame fit to send, and telemetry zero-filled until a channel first absorbs (R30, R36, 43_telemetry R165). -/
abbrev Block.Inv (p : Params) (b : Block) : Prop :=
  b.txf.id = p.txId ∧ outgoingOk p b.txl ∧ (∀ c : Fin 4, b.tlf[c].id = tidOf p c) ∧ (∀ c : Fin 4, speedOk b.spd[c]) ∧
    ∀ c : Fin 4, b.tlmv[c] = false → b.tlf[c] = Frame.zero (tidOf p c)

/-- The machine's invariant: the block's, and every frame ever sent was fit to send (45_ports R222, R228). -/
abbrev State.Inv (s : State) : Prop :=
  s.block.Inv s.params ∧ ∀ f ∈ s.env.sent, outgoingOk s.params f

/-- A host step that is no access error (20_memory R52, 60_exceptions R255). -/
def HostStep.legal : HostStep → Bool
  | .read width offset => (hostAccess? width offset).isSome
  | .write width offset _ => (hostAccess? width offset).isSome
  | .poll offset _ _ => (hostAccess? 32 offset).isSome

/-- A host program that makes no access error: a good run never faults (R255). -/
abbrev State.hostLegal (s : State) : Prop := ∀ h ∈ s.env.host, h.legal = true

/-- The host has issued its last step: the run has ended (R228). -/
abbrev State.runEnded (s : State) : Prop := s.env.host = []

end Sys2Proof.Machine
end

