-- ==== Sys2Proof/Certificates/Slice0/Obligations.lean ====
section
/-! DEFINITION. The statements about the model, each from a numbered rule of spec/, and the few plain definitions they are read with. -/

namespace Sys2Proof.Claims

open Sys2Proof.Machine

/-! ### The spec's arithmetic, in its own terms -/

/-- `Round(t)` of 40_codec R100: `trunc(t)` or `floor(t)`. -/
def roundExact {K : Type} [Ring K] [LinearOrder K] [FloorRing K] (r : Rounding) (t : K) : Int :=
  match r with
  | .trunc => if 0 ≤ t then ⌊t⌋ else ⌈t⌉
  | .floor => ⌊t⌋

/-- What `Fit` saturates to under clamp (R101). -/
def clampTo {K : Type} [LinearOrder K] (lo hi t : K) : K := max lo (min hi t)

/-- The affine image `cmin + (v - dmin) * (cmax - cmin) / (dmax - dmin)` (R102). -/
def affineImage {K : Type} [Field K] (v dmin dmax cmin cmax : K) : K :=
  cmin + (v - dmin) * (cmax - cmin) / (dmax - dmin)

/-- The exact image of a speed percentage: the current `20 * p / 100` in `[-20, 20]` mapped to `[-16384, 16384]` (42_channel
R142). -/
def speedImage {K : Type} [Field K] (percent : K) : K := affineImage (20 * percent / 100) (-20) 20 (-16384) 16384

/-- `ARG[i]` as an integer (00_scope R11). -/
def arg (s : State) (i : Fin 5) : Int := s.block.arg[i].toInt

/-- The percentage an operand stands for: `P / 2^PCT_FRAC` (R142). -/
def percent (p : Params) (P : Int) : ℚ := P / 2 ^ p.pctFrac

/-- ENC's exact image of its five operands (R102). -/
def encImage (s : State) : ℚ := affineImage (arg s 0) (arg s 1) (arg s 2) (arg s 3) (arg s 4)

/-- The angle of 44_drive R180: `acos(x / distance)`, negated when `y < 0`, minus `pi / 4`. -/
noncomputable def driveAngle (x y : Int) : ℝ :=
  (if y < 0 then -Real.arccos (x / Real.sqrt (x ^ 2 + y ^ 2)) else Real.arccos (x / Real.sqrt (x ^ 2 + y ^ 2))) - Real.pi / 4

/-- The wheel percentages of R180 and R183: FL = vector_13, BL = vector_24, BR = -vector_13, FR = -vector_24. -/
noncomputable def wheelPercent (x y : Int) (speed : ℝ) : Fin 4 → ℝ
  | 0 => Real.cos (driveAngle x y) * speed
  | 1 => Real.sin (driveAngle x y) * speed
  | 2 => -(Real.cos (driveAngle x y) * speed)
  | 3 => -(Real.sin (driveAngle x y) * speed)

/-- The exact image of a wheel's percentage under SHIFT's operands ARG0, ARG1, ARG2 (R180, R183, R184). -/
noncomputable def wheelImage (s : State) (c : Fin 4) : ℝ :=
  speedImage (wheelPercent (arg s 0) (arg s 1) (arg s 2 / 2 ^ s.params.pctFrac) c)

/-! ### The spec's tables -/

/-- The frame store of a frame-select value 0 to 6 (10_state R34). -/
def storeFrame (b : Block) : Fin 7 → Frame
  | 0 => b.txf
  | 1 => b.rxf
  | 2 => b.tlf[0]
  | 3 => b.tlf[1]
  | 4 => b.tlf[2]
  | 5 => b.tlf[3]
  | 6 => b.txl

/-- The telemetry identifier of channel address `c + 1` (42_channel R143). -/
def telemetryId (p : Params) (c : Fin 4) : Word := p.tlmBaseId + BitVec.ofNat 32 (c.val + 1)

/-- The number of each error code (60_exceptions R241). -/
def errNumber : ErrCode → Nat
  | .ok => 0
  | .domainError => 1
  | .rangeOverflow => 2
  | .indexOutOfBounds => 3
  | .identifierMismatch => 4
  | .illegalCommand => 5
  | .txBusy => 6

/-- The failing codes of R241: every code but OK and the diagnostic IdentifierMismatch. -/
def failing (e : ErrCode) : Prop := e ≠ .ok ∧ e ≠ .identifierMismatch

/-- The host register map: each mapped offset and the word a read of it returns (20_memory R51, R55, R56, 10_state R31). -/
def registerMap (s : State) : List (Nat × Word) :=
  [ (0x00, s.block.cmd), (0x04, s.block.status),
    (0x08, BitVec.ofNat 32 s.block.arg[0].toNat), (0x0C, BitVec.ofNat 32 s.block.arg[1].toNat),
    (0x10, BitVec.ofNat 32 s.block.arg[2].toNat), (0x14, BitVec.ofNat 32 s.block.arg[3].toNat),
    (0x18, BitVec.ofNat 32 s.block.arg[4].toNat), (0x20, BitVec.ofNat 32 s.block.res[0].toNat),
    (0x24, BitVec.ofNat 32 s.block.res[1].toNat), (0x28, BitVec.ofNat 32 s.block.res[2].toNat),
    (0x30, s.params.txId), (0x34, s.params.tlmBaseId) ]

/-- The opcodes of the three classes with fixed-zero fields below bit 7, and of class F (30_encoding R81, R83). -/
def opcodesZ : List Nat := [0x00, 0x01, 0x02, 0x03, 0x21, 0x40, 0x41, 0x42, 0x43, 0x44]
def opcodesA : List Nat := [0x20, 0x22, 0x30, 0x31, 0x32, 0x33]
def opcodesF : List Nat := [0x10, 0x11]
def opcodesS : List Nat := [0x12, 0x13]

/-- How many result registers a command that completes may write, from RES[0] on (10_state R22, R23). -/
def resultCount : Instr → Nat
  | .nop => 0
  | .enc => 1
  | .split => 2
  | .join => 1
  | .fget _ _ => 1
  | .fset _ _ => 0
  | .fid _ => 2
  | .fnew _ => 0
  | .offs _ => 2
  | .encspd => 3
  | .absorb _ => 1
  | .tang _ => 2
  | .trpm _ => 2
  | .tcur _ => 2
  | .ttmp _ => 2
  | .shift => 0
  | .turn => 0
  | .tstmv => 0
  | .send => 0
  | .fdbk => 1

/-- The host moves next, with `h` its next step, and `rest` and `hs` follow. -/
def hostMoves (s : State) (rest : List Agent) (h : HostStep) (hs : List HostStep) : Prop :=
  s.env.schedule = .host :: rest ∧ s.env.host = h :: hs

/-- The machine after a failed command: ERR takes the code, nothing else changes (60_exceptions R244). -/
def failedWith (s : State) (e : ErrCode) : Host.Outcome State Fault Refusal :=
  .next { s with block := { s.block with err := e } }

/-- The machine after a command that writes result registers only (10_state R23). -/
def resultsOnly (s : State) (r : Vector Code 3) : Host.Outcome State Fault Refusal :=
  .next { s with block := { s.block with res := r, err := .ok } }

/-- The machine after a command that writes speed codes only (10_state R23, R32). -/
def speedsOnly (s : State) (v : Vector Code 4) : Host.Outcome State Fault Refusal :=
  .next { s with block := { s.block with spd := v, err := .ok } }

/-- The command state of 10_state R39, as one value. -/
def commandState (b : Block) : Vector Code 4 × Frame × Frame × Bool := (b.spd, b.txf, b.txl, b.txpend)

/-- The feedback state of R39, as one value. -/
def feedbackState (b : Block) : Frame × Vector Frame 4 × Vector Bool 4 × Bool := (b.rxf, b.tlf, b.tlmv, b.idmm)

end Sys2Proof.Claims

open Sys2Proof Sys2Proof.Machine Sys2Proof.Claims

/-! ### Encoding -/

/-- Decoding the word of a well-formed command gives the command back, every field at every value (30_encoding R80 to R83). -/
def Obligations.DecodeOfEncodeIsTheCommand : Prop :=
  ∀ i : Instr, i.WellFormed → decode (encode i) = .ok i

/-- A word that decodes is the word of a well-formed command, so each legal word has one meaning (R80 to R85). -/
def Obligations.EncodeOfDecodeIsTheWord : Prop :=
  ∀ (w : Word) (i : Instr), decode w = .ok i → i.WellFormed ∧ encode i = w

/-- The illegal words are exactly those R84 lists: an unassigned OPC, RSV not 0, or a field its class does not use not 0. -/
def Obligations.IllegalWordsAreExactlyTheListedOnes : Prop :=
  ∀ w : Word, (∃ e, decode w = .error e) ↔
    (w.toNat / 2 ^ 24 ∉ opcodesZ ++ opcodesA ++ opcodesF ++ opcodesS ∨
      w.toNat / 2 ^ 7 % 2 ^ 17 ≠ 0 ∨
      (w.toNat / 2 ^ 24 ∈ opcodesZ ∧ w.toNat % 2 ^ 7 ≠ 0) ∨
      (w.toNat / 2 ^ 24 ∈ opcodesA ∧ w.toNat / 2 ^ 4 % 2 ^ 3 ≠ 0) ∨
      (w.toNat / 2 ^ 24 ∈ opcodesS ∧ w.toNat % 2 ^ 4 ≠ 0))

/-- Words written out from the encodings of R83 and vector L2.1, one or two of each family. -/
def Obligations.SampleWordsDecodeAsTheSpecLists : Prop :=
  decode 0x00000000#32 = .ok .nop ∧ decode 0x01000000#32 = .ok .enc ∧ decode 0x10000067#32 = .ok (.fget 6 7) ∧
    decode 0x11000016#32 = .ok (.fset 1 6) ∧ decode 0x13000010#32 = .ok (.fnew 1) ∧ decode 0x2000000F#32 = .ok (.offs 15) ∧
    decode 0x33000004#32 = .ok (.ttmp 4) ∧ decode 0x44000000#32 = .ok .fdbk

/-! ### Issue, errors, faults -/

/-- A host write to CMD of a word that decodes stores the word and runs exactly that command, the host's step and its
turn consumed (30_encoding R86). `withFetchWord` places such a write before the next step (log 2). -/
def Obligations.StepRunsTheDecodedCommand : Prop :=
  (∀ (s : State) (rest : List Agent) (hs : List HostStep) (w : Word) (i : Instr),
    hostMoves s rest (.write 32 0x00 w) hs → decode w = .ok i →
      step s = exec i { s with block := { s.block with cmd := w }, env := { s.env with schedule := rest, host := hs } }) ∧
  ∀ (s : State) (w : Word) (i : Instr), decode w = .ok i →
    step (s.withFetchWord 32 w.toNat) = exec i { s with block := { s.block with cmd := w } }

/-- A host write to CMD of a word that selects no command stores it and raises IllegalCommand, with no other effect
(R84, R86, R87). -/
def Obligations.StepOfAnIllegalWordRaisesIllegalCommand : Prop :=
  ∀ (s : State) (rest : List Agent) (hs : List HostStep) (w : Word) (e : DecodeError),
    hostMoves s rest (.write 32 0x00 w) hs → decode w = .error e →
      step s = .next { s with
        block := { s.block with cmd := w, err := .illegalCommand }, env := { s.env with schedule := rest, host := hs } }

/-- A command that ends with a failing code leaves everything as it was before it but ERR; the whole issue step changes CMD
and ERR alone (60_exceptions R244, 30_encoding R87). -/
def Obligations.FailingCommandsChangeOnlyErr : Prop :=
  (∀ (i : Instr) (s t : State), exec i s = .next t → failing t.block.err →
    t = { s with block := { s.block with err := t.block.err } }) ∧
  ∀ (s t : State) (rest : List Agent) (hs : List HostStep) (w : Word), hostMoves s rest (.write 32 0x00 w) hs →
    step s = .next t → failing t.block.err →
    t.block = { s.block with cmd := w, err := t.block.err } ∧ t.params = s.params ∧ t.env.sent = s.env.sent

/-- A command reissued with other operands after a failure does what it would have done had the failed attempt never
happened. The spec marks this sentence of 60_exceptions R245 as its own inference from R244. -/
def Obligations.ReissueAfterFailureIsAsIfItNeverHappened : Prop :=
  ∀ (i j : Instr) (s t : State) (a : Vector Code 5), exec i s = .next t → failing t.block.err →
    exec j { t with block := { t.block with arg := a } } = exec j { s with block := { s.block with arg := a } }

/-- A host that makes no access error never sees a fault: every step answers a next state and the host stays clean
(20_memory R52, 60_exceptions R240, R255). -/
def Obligations.LegalHostNeverFaults : Prop :=
  ∀ s : State, s.hostLegal → ∃ t, step s = .next t ∧ t.hostLegal

/-! ### NOP and the codec -/

/-- NOP clears ERR and changes nothing else. Its word is 0, which is CMD's reset value; every other word with its opcode is
illegal (30_encoding R89). -/
def Obligations.NopOnlyClearsErr : Prop :=
  decode 0x00000000#32 = .ok .nop ∧ State.reset.block.cmd = 0x00000000#32 ∧
  (∀ w : Word, w.toNat / 2 ^ 24 = 0x00 → w ≠ 0 → ∃ e, decode w = .error e) ∧
  ∀ s : State, exec .nop s = .next { s with block := { s.block with err := .ok } }

/-- ENC with a domain of nonzero width and its exact image within the codomain writes the rounded image to RES0, and
nothing else but ERR (40_codec R100, R101, R102). -/
def Obligations.EncWritesTheRoundedExactImage : Prop :=
  ∀ s : State, arg s 2 ≠ arg s 1 → (min (arg s 3) (arg s 4) : Int) ≤ encImage s → encImage s ≤ (max (arg s 3) (arg s 4) : Int) →
    ∃ c : Code, c.toInt = roundExact s.params.encRound (encImage s) ∧ exec .enc s = resultsOnly s (s.block.res.set 0 c)

/-- ENC with its exact image outside the codomain fails with RangeOverflow under the error policy (R101, R102). -/
def Obligations.EncRejectsAnImageOutsideTheCodomain : Prop :=
  ∀ s : State, s.params.ovfPolicy = .error → arg s 2 ≠ arg s 1 →
    (encImage s < (min (arg s 3) (arg s 4) : Int) ∨ ((max (arg s 3) (arg s 4) : Int) : ℚ) < encImage s) →
    exec .enc s = failedWith s .rangeOverflow

/-- ENC saturates under the clamp policy and completes with ERR = 0 (R101, R102, 60_exceptions R246). -/
def Obligations.EncSaturatesUnderClamp : Prop :=
  ∀ s : State, s.params.ovfPolicy = .clamp → arg s 2 ≠ arg s 1 →
    ∃ c : Code,
      c.toInt = roundExact s.params.encRound
        (clampTo ((min (arg s 3) (arg s 4) : Int) : ℚ) ((max (arg s 3) (arg s 4) : Int) : ℚ) (encImage s)) ∧
      exec .enc s = resultsOnly s (s.block.res.set 0 c)

/-- The value at either end of the domain encodes to that end of the codomain exactly, whatever the parameters (R102). -/
def Obligations.EncIsExactAtBothEndpoints : Prop :=
  ∀ s : State, arg s 2 ≠ arg s 1 →
    (arg s 0 = arg s 1 → exec .enc s = resultsOnly s (s.block.res.set 0 s.block.arg[3])) ∧
    (arg s 0 = arg s 2 → exec .enc s = resultsOnly s (s.block.res.set 0 s.block.arg[4]))

/-- ENC is monotone in its value: non-decreasing when domain and codomain run the same way, non-increasing when they run
opposite ways, constant when the codomain is a point. The spec marks R105 as its own inference from R100 and R102. -/
def Obligations.EncIsMonotoneInItsValue : Prop :=
  ∀ (s t u : State) (v w : Code), arg s 2 ≠ arg s 1 → v.toInt ≤ w.toInt →
    exec .enc { s with block := { s.block with arg := s.block.arg.set 0 v } } = .next t → t.block.err = .ok →
    exec .enc { s with block := { s.block with arg := s.block.arg.set 0 w } } = .next u → u.block.err = .ok →
    (0 < (arg s 2 - arg s 1) * (arg s 4 - arg s 3) → t.block.res[0].toInt ≤ u.block.res[0].toInt) ∧
    ((arg s 2 - arg s 1) * (arg s 4 - arg s 3) < 0 → u.block.res[0].toInt ≤ t.block.res[0].toInt) ∧
    (arg s 3 = arg s 4 → t.block.res[0].toInt = arg s 3 ∧ u.block.res[0].toInt = arg s 3)

/-- ENC with a zero-width domain and SHIFT with a zero vector fail with DomainError (R102, 44_drive R184). -/
def Obligations.ZeroWidthAndZeroVectorRaiseDomainError : Prop :=
  (∀ s : State, arg s 2 = arg s 1 → exec .enc s = failedWith s .domainError) ∧
  ∀ s : State, arg s 0 = 0 → arg s 1 = 0 → exec .shift s = failedWith s .domainError

/-- SPLIT writes the high byte, the floor of the code over 256, and the low byte, its signed remainder, to RES0 and RES1
(R103). -/
def Obligations.SplitWritesTheTwoSignedBytes : Prop :=
  decode 0x02000000#32 = .ok .split ∧
  ∀ s : State, ∃ h l : Code, h.toInt = arg s 0 / 256 ∧ l.toInt = (arg s 0).bmod 256 ∧
    exec .split s = resultsOnly s ((s.block.res.set 0 h).set 1 l)

/-- JOIN of two byte operands writes `h * 256 + (l & 0xFF)` to RES0; an operand outside int8 fails with RangeOverflow under
either policy (R104). -/
def Obligations.JoinWritesTheJoinedCode : Prop :=
  decode 0x03000000#32 = .ok .join ∧
  (∀ s : State, -128 ≤ arg s 0 → arg s 0 ≤ 127 → -128 ≤ arg s 1 → arg s 1 ≤ 127 →
    ∃ c : Code, c.toInt = arg s 0 * 256 + arg s 1 % 256 ∧ exec .join s = resultsOnly s (s.block.res.set 0 c)) ∧
  ∀ s : State, ¬(-128 ≤ arg s 0 ∧ arg s 0 ≤ 127 ∧ -128 ≤ arg s 1 ∧ arg s 1 ≤ 127) →
    exec .join s = failedWith s .rangeOverflow

/-- SPLIT then JOIN of its two results gives any code back, and JOIN then SPLIT gives any two bytes back. The spec marks
R106 as its own inference from R103 and R104. -/
def Obligations.SplitAndJoinAreInverse : Prop :=
  (∀ s t : State, exec .split s = .next t →
    exec .join { t with block := { t.block with arg := (t.block.arg.set 0 t.block.res[0]).set 1 t.block.res[1] } } =
      .next { t with block := { t.block with
        arg := (t.block.arg.set 0 t.block.res[0]).set 1 t.block.res[1], res := t.block.res.set 0 s.block.arg[0] } }) ∧
  ∀ s t : State, exec .join s = .next t → t.block.err = .ok →
    exec .split { t with block := { t.block with arg := t.block.arg.set 0 t.block.res[0] } } =
      .next { t with block := { t.block with
        arg := t.block.arg.set 0 t.block.res[0], res := (t.block.res.set 0 s.block.arg[0]).set 1 s.block.arg[1] } }

/-! ### Frame access -/

/-- FGET writes the signed byte of any of the seven stores to RES0 and changes nothing else but ERR (41_frame R121). -/
def Obligations.FgetReadsTheNamedByte : Prop :=
  ∀ (s : State) (sel : Fin 7) (i : Fin 8), ∃ c : Code, c.toInt = (storeFrame s.block sel).b[i].toInt ∧
    exec (.fget sel i) s = resultsOnly s (s.block.res.set 0 c)

/-- FSET of a byte value on TXF or RXF stores it at the named byte; every other byte of every store, every identifier and
everything else but ERR stays (41_frame R122). -/
def Obligations.FsetWritesOnlyTheNamedByte : Prop :=
  ∀ (s : State) (sel : Fin 7) (i : Fin 8), sel.val ≤ 1 → -128 ≤ arg s 0 → arg s 0 ≤ 127 →
    ∃ b : Block, exec (.fset sel i) s = .next { s with block := b } ∧
      (storeFrame b sel).b[i].toInt = arg s 0 ∧
      (∀ (sel' : Fin 7) (j : Fin 8), (sel', j) ≠ (sel, i) → (storeFrame b sel').b[j] = (storeFrame s.block sel').b[j]) ∧
      (∀ sel' : Fin 7, (storeFrame b sel').id = (storeFrame s.block sel').id) ∧
      b = { s.block with txf := b.txf, rxf := b.rxf, err := .ok }

/-- The frame commands' errors, in their order: the sel check, then the idx check, then FSET's value check (R120 to R123,
60_exceptions R243). -/
def Obligations.FrameFieldErrorsInOrder : Prop :=
  ∀ (s : State) (sel idx : Nat),
    (6 < sel → exec (.fget sel idx) s = failedWith s .illegalCommand) ∧
    (sel ≤ 6 → 8 ≤ idx → exec (.fget sel idx) s = failedWith s .indexOutOfBounds) ∧
    (1 < sel → exec (.fset sel idx) s = failedWith s .illegalCommand) ∧
    (sel ≤ 1 → 8 ≤ idx → exec (.fset sel idx) s = failedWith s .indexOutOfBounds) ∧
    (sel ≤ 1 → idx < 8 → ¬(-128 ≤ arg s 0 ∧ arg s 0 ≤ 127) → exec (.fset sel idx) s = failedWith s .rangeOverflow) ∧
    (6 < sel → exec (.fid sel) s = failedWith s .illegalCommand)

/-- FID writes the two halves of the store's identifier to RES0 and RES1 (R123). -/
def Obligations.FidReadsTheIdentifier : Prop :=
  ∀ (s : State) (sel : Fin 7), ∃ lo hi : Code, (storeFrame s.block sel).id.toNat = hi.toNat * 65536 + lo.toNat ∧
    exec (.fid sel) s = resultsOnly s ((s.block.res.set 0 lo).set 1 hi)

/-- FNEW builds RXF anew: the identifier of ARG1 and ARG0 and eight zero bytes. Any other store fails with IllegalCommand
(R124). -/
def Obligations.FnewCreatesAZeroFilledFrame : Prop :=
  (∀ sel : Nat, sel < 8 → decode (BitVec.ofNat 32 (0x13000000 + 16 * sel)) = .ok (.fnew sel)) ∧
  (∀ (s : State) (sel : Nat), sel ≠ 1 → exec (.fnew sel) s = failedWith s .illegalCommand) ∧
  ∀ s : State, ∃ id : Word, id.toNat = s.block.arg[1].toNat * 65536 + s.block.arg[0].toNat ∧
    exec (.fnew 1) s = .next { s with block := { s.block with rxf := ⟨id, #v[0, 0, 0, 0, 0, 0, 0, 0]⟩, err := .ok } }

/-! ### Motor channels and telemetry -/

/-- OFFS writes the byte pair of a motor address to RES0 and RES1, and fails with IndexOutOfBounds outside 1..4 (42_channel
R140, R141). -/
def Obligations.OffsWritesTheBytePair : Prop :=
  (∀ a : Nat, a < 16 → decode (BitVec.ofNat 32 (0x20000000 + a)) = .ok (.offs a)) ∧
  (∀ (s : State) (a : Nat), ¬(1 ≤ a ∧ a ≤ 4) → exec (.offs a) s = failedWith s .indexOutOfBounds) ∧
  ∀ (s : State) (a : Nat), 1 ≤ a → a ≤ 4 → ∃ f l : Code, f.toInt = 2 * ((a : Int) - 1) ∧ l.toInt = 2 * ((a : Int) - 1) + 1 ∧
    exec (.offs a) s = resultsOnly s ((s.block.res.set 0 f).set 1 l)

/-- ENCSPD of a percentage within 100 % writes the two bytes of the speed code and the code to RES0, RES1, RES2 (R142, R144). -/
def Obligations.EncspdWritesBytesAndCode : Prop :=
  ∀ s : State, |percent s.params (arg s 0)| ≤ 100 →
    ∃ h l c : Code, c.toInt = roundExact s.params.encRound (speedImage (percent s.params (arg s 0))) ∧
      h.toInt = c.toInt / 256 ∧ l.toInt = c.toInt.bmod 256 ∧ exec .encspd s = resultsOnly s #v[h, l, c]

/-- TURN of a percentage within 100 % gives all four channels its speed code (R142, 44_drive R185). -/
def Obligations.TurnGivesAllWheelsTheSameCode : Prop :=
  ∀ s : State, |percent s.params (arg s 0)| ≤ 100 →
    ∃ c : Code, c.toInt = roundExact s.params.encRound (speedImage (percent s.params (arg s 0))) ∧
      exec .turn s = speedsOnly s #v[c, c, c, c]

/-- TSTMV of a percentage within 100 % drives front-left with it and back-right with its negation; the other two keep
their codes (R142, R186). -/
def Obligations.TstmvDrivesTwoDiagonalWheels : Prop :=
  ∀ s : State, |percent s.params (arg s 0)| ≤ 100 →
    ∃ c1 c3 : Code, c1.toInt = roundExact s.params.encRound (speedImage (percent s.params (arg s 0))) ∧
      c3.toInt = roundExact s.params.encRound (speedImage (-percent s.params (arg s 0))) ∧
      exec .tstmv s = speedsOnly s #v[c1, s.block.spd[1], c3, s.block.spd[3]]

/-- Beyond 100 % the three direct speed commands fail with RangeOverflow under the error policy (R142, R144, R185, R186). -/
def Obligations.SpeedBeyondFullScaleIsRejected : Prop :=
  ∀ s : State, s.params.ovfPolicy = .error → 100 < |percent s.params (arg s 0)| →
    ∀ i ∈ [Instr.encspd, Instr.turn, Instr.tstmv], exec i s = failedWith s .rangeOverflow

/-- Beyond 100 % they saturate at the end of the code range the percentage lies towards, under the clamp policy (R101, R142). -/
def Obligations.SpeedBeyondFullScaleSaturatesUnderClamp : Prop :=
  ∀ s : State, s.params.ovfPolicy = .clamp → 100 < |percent s.params (arg s 0)| →
    ∃ c n h l : Code, c.toInt = (arg s 0).sign * 16384 ∧ n.toInt = -c.toInt ∧ h.toInt = c.toInt / 256 ∧
      l.toInt = c.toInt.bmod 256 ∧ exec .encspd s = resultsOnly s #v[h, l, c] ∧ exec .turn s = speedsOnly s #v[c, c, c, c] ∧
      exec .tstmv s = speedsOnly s #v[c, s.block.spd[1], n, s.block.spd[3]]

/-- R142's closed form at PCT_FRAC = 8: for an operand within 25600 the code is 16 * P / 25, rounded once. The spec marks the
algebra as its own inference. -/
def Obligations.SpeedCodeHasTheClosedForm : Prop :=
  ∀ s : State, s.params.pctFrac = 8 → |arg s 0| ≤ 25600 →
    ∃ h l c : Code, exec .encspd s = resultsOnly s #v[h, l, c] ∧
      (s.params.encRound = .trunc → c.toInt = (16 * arg s 0).tdiv 25) ∧
      (s.params.encRound = .floor → c.toInt = (16 * arg s 0).fdiv 25)

/-- ABSORB takes RXF whole when its identifier is the channel's, and otherwise only reports 0; an address outside 1..4 fails
with IndexOutOfBounds (R145, R146). -/
def Obligations.AbsorbTakesOnlyItsOwnIdentifier : Prop :=
  (∀ a : Nat, a < 16 → decode (BitVec.ofNat 32 (0x22000000 + a)) = .ok (.absorb a)) ∧
  (∀ (s : State) (a : Nat), ¬(1 ≤ a ∧ a ≤ 4) → exec (.absorb a) s = failedWith s .indexOutOfBounds) ∧
  ∀ (s : State) (c : Fin 4),
    (s.block.rxf.id = telemetryId s.params c →
      exec (.absorb (c.val + 1)) s = .next { s with block := { s.block with
        tlf := s.block.tlf.set c s.block.rxf, tlmv := s.block.tlmv.set c true, res := s.block.res.set 0 1, err := .ok } }) ∧
    (s.block.rxf.id ≠ telemetryId s.params c → exec (.absorb (c.val + 1)) s = resultsOnly s (s.block.res.set 0 0))

/-- The four telemetry reads: the big-endian field, or the signed byte 6, of the channel's frame in RES0 and its TLMV in
RES1, and nothing else but ERR; an address outside 1..4 fails with IndexOutOfBounds (43_telemetry R160 to R164). -/
def Obligations.TelemetryReadsDecodeTheFrame : Prop :=
  (∀ a : Nat, a < 16 →
    decode (BitVec.ofNat 32 (0x30000000 + a)) = .ok (.tang a) ∧ decode (BitVec.ofNat 32 (0x31000000 + a)) = .ok (.trpm a) ∧
    decode (BitVec.ofNat 32 (0x32000000 + a)) = .ok (.tcur a) ∧ decode (BitVec.ofNat 32 (0x33000000 + a)) = .ok (.ttmp a)) ∧
  (∀ (s : State) (a : Nat), ¬(1 ≤ a ∧ a ≤ 4) →
    ∀ i ∈ [Instr.tang a, Instr.trpm a, Instr.tcur a, Instr.ttmp a], exec i s = failedWith s .indexOutOfBounds) ∧
  ∀ (s : State) (c : Fin 4), ∃ angle rpm current temperature valid : Code,
    angle.toInt = s.block.tlf[c].b[0].toInt * 256 + s.block.tlf[c].b[1].toNat ∧
    rpm.toInt = s.block.tlf[c].b[2].toInt * 256 + s.block.tlf[c].b[3].toNat ∧
    current.toInt = s.block.tlf[c].b[4].toInt * 256 + s.block.tlf[c].b[5].toNat ∧
    temperature.toInt = s.block.tlf[c].b[6].toInt ∧
    valid.toInt = (if s.block.tlmv[c] then 1 else 0) ∧
    exec (.tang (c.val + 1)) s = resultsOnly s ((s.block.res.set 0 angle).set 1 valid) ∧
    exec (.trpm (c.val + 1)) s = resultsOnly s ((s.block.res.set 0 rpm).set 1 valid) ∧
    exec (.tcur (c.val + 1)) s = resultsOnly s ((s.block.res.set 0 current).set 1 valid) ∧
    exec (.ttmp (c.val + 1)) s = resultsOnly s ((s.block.res.set 0 temperature).set 1 valid)

/-- While a channel has absorbed nothing, its four reads return the zero default with RES1 = 0 (R165). The premise is the
invariant that every step keeps. -/
def Obligations.ReadsBeforeTelemetryReturnZero : Prop :=
  ∀ (s : State) (c : Fin 4), s.Inv → s.block.tlmv[c] = false →
    ∀ i ∈ [Instr.tang (c.val + 1), Instr.trpm (c.val + 1), Instr.tcur (c.val + 1), Instr.ttmp (c.val + 1)],
      exec i s = resultsOnly s ((s.block.res.set 0 0).set 1 0)

/-! ### Drive -/

/-- SHIFT computes the source's polar algorithm exactly: for a nonzero vector whose four exact wheel images lie in range,
each wheel's code is the rounded image of its percentage, and nothing else but ERR changes (44_drive R180 to R184). -/
def Obligations.ShiftComputesThePolarTransformExactly : Prop :=
  ∀ s : State, ¬(arg s 0 = 0 ∧ arg s 1 = 0) → (∀ c : Fin 4, |wheelImage s c| ≤ 16384) →
    ∃ v : Vector Code 4, (∀ c : Fin 4, v[c].toInt = roundExact s.params.encRound (wheelImage s c)) ∧
      exec .shift s = speedsOnly s v

/-- SHIFT with any exact wheel image out of range fails with RangeOverflow under the error policy, and no speed changes
(R182, R184). -/
def Obligations.ShiftRejectsAnyWheelOutOfRange : Prop :=
  ∀ s : State, s.params.ovfPolicy = .error → ¬(arg s 0 = 0 ∧ arg s 1 = 0) → (∃ c : Fin 4, 16384 < |wheelImage s c|) →
    exec .shift s = failedWith s .rangeOverflow

/-- SHIFT of a nonzero vector always completes under the clamp policy, each wheel saturated by itself (R101, R182). -/
def Obligations.ShiftSaturatesUnderClamp : Prop :=
  ∀ s : State, s.params.ovfPolicy = .clamp → ¬(arg s 0 = 0 ∧ arg s 1 = 0) →
    ∃ v : Vector Code 4,
      (∀ c : Fin 4, v[c].toInt = roundExact s.params.encRound (clampTo (-16384) 16384 (wheelImage s c))) ∧
      exec .shift s = speedsOnly s v

/-- Under trunc, SHIFT gives opposite wheels exactly negated codes. The spec marks this sentence of R183 as its own
inference from R100 and R182. -/
def Obligations.ShiftNegatesOppositeWheelsUnderTrunc : Prop :=
  ∀ s t : State, s.params.encRound = .trunc → exec .shift s = .next t → t.block.err = .ok →
    t.block.spd[2].toInt = -t.block.spd[0].toInt ∧ t.block.spd[3].toInt = -t.block.spd[1].toInt

/-- Only the direction of (x, y) matters: scaling both by a positive integer changes neither the speeds nor the outcome.
The spec marks R181 as its own inference from R180. -/
def Obligations.ShiftDependsOnDirectionOnly : Prop :=
  ∀ (s : State) (a : Vector Code 5) (k : Int) (t u : State), 0 < k → a[0].toInt = k * arg s 0 → a[1].toInt = k * arg s 1 →
    a[2] = s.block.arg[2] → exec .shift s = .next t →
    exec .shift { s with block := { s.block with arg := a } } = .next u →
    u.block.spd = t.block.spd ∧ u.block.err = t.block.err

/-- SEND with the latch free writes the four codes to TXF big-endian in address order, latches the same bytes under TX_ID,
and sets TXPEND; while a frame is in flight it fails with TxBusy and changes nothing else (R187, R188). -/
def Obligations.SendAssemblesAndLatchesTheFrame : Prop :=
  decode 0x43000000#32 = .ok .send ∧
  (∀ s : State, s.block.txpend = true → exec .send s = failedWith s .txBusy) ∧
  ∀ s : State, s.block.txpend = false →
    ∃ B : Vector Byte 8,
      (∀ (c : Fin 4), (B[2 * c.val]).toInt = s.block.spd[c].toInt / 256 ∧
        (B[2 * c.val + 1]).toInt = s.block.spd[c].toInt.bmod 256) ∧
      exec .send s = .next { s with block := { s.block with
        txf := { s.block.txf with b := B }, txl := ⟨s.params.txId, B⟩, txpend := true, err := .ok } }

/-- FDBK gives RXF whole to the one channel with its identifier; with no such channel it sets IDMM and reports
IdentifierMismatch, telemetry untouched (R189, R190, 60_exceptions R247). -/
def Obligations.FdbkUpdatesExactlyTheMatchingChannel : Prop :=
  decode 0x44000000#32 = .ok .fdbk ∧
  ∀ s : State,
    (∀ c : Fin 4, s.block.rxf.id = telemetryId s.params c →
      exec .fdbk s = .next { s with block := { s.block with
        tlf := s.block.tlf.set c s.block.rxf, tlmv := s.block.tlmv.set c true,
        res := s.block.res.set 0 (BitVec.ofNat 16 (c.val + 1)), err := .ok } }) ∧
    ((∀ c : Fin 4, s.block.rxf.id ≠ telemetryId s.params c) →
      exec .fdbk s = .next { s with block := { s.block with
        idmm := true, res := s.block.res.set 0 0, err := .identifierMismatch } })

/-! ### Ports, reset, host interface -/

/-- The TX acceptance event takes TXL into the sent record and clears TXPEND; while TXPEND is 0 it is not enabled and only
the turn is used up (45_ports R222). That a turn may be offered to an event not enabled is the model's own (log 3). -/
def Obligations.TxAcceptanceTakesThePendingFrame : Prop :=
  ∀ (s : State) (rest : List Agent), s.env.schedule = .tx :: rest →
    (s.block.txpend = true →
      step s = .next { s with
        block := { s.block with txpend := false },
        env := { s.env with schedule := rest, sent := s.env.sent ++ [s.block.txl] } }) ∧
    (s.block.txpend = false → step s = .next { s with env := { s.env with schedule := rest } })

/-- An RX delivery puts the received frame, zero-filled past the delivered bytes and cut at eight, into RXF and dispatches
it: the matching channel takes it whole, or IDMM is set (R223 to R226). The delivered count n is the length of the list of
bytes (log 15). -/
def Obligations.RxDeliveryStoresAndDispatches : Prop :=
  ∀ (s : State) (rest : List Agent) (d : Delivery) (ds : List Delivery),
    s.env.schedule = .rx :: rest → s.env.rx = d :: ds →
    ∃ F : Frame, F.id = d.id ∧
      (∀ i : Fin 8, F.b[i] = if i.val < min d.bytes.length 8 then d.bytes.getD i.val 0 else 0) ∧
      (∀ c : Fin 4, d.id = telemetryId s.params c →
        step s = .next { s with
          block := { s.block with rxf := F, tlf := s.block.tlf.set c F, tlmv := s.block.tlmv.set c true },
          env := { s.env with schedule := rest, rx := ds } }) ∧
      ((∀ c : Fin 4, d.id ≠ telemetryId s.params c) →
        step s = .next { s with
          block := { s.block with rxf := F, idmm := true }, env := { s.env with schedule := rest, rx := ds } })

/-- Reset puts every element of the block at its value of R271, whatever it held, and touches neither the parameters nor
the sent record (70_reset R271, R272). -/
def Obligations.ResetSetsEveryElement : Prop :=
  ∀ (s : State) (rest : List Agent), s.env.schedule = .resetInput :: rest →
    ∃ t, step s = .next t ∧ t.params = s.params ∧ t.env.sent = s.env.sent ∧ t.block =
      { cmd := 0, err := .ok, idmm := false, txpend := false, tlmv := #v[false, false, false, false],
        arg := #v[0, 0, 0, 0, 0], res := #v[0, 0, 0], spd := #v[0, 0, 0, 0],
        txf := ⟨s.params.txId, #v[0, 0, 0, 0, 0, 0, 0, 0]⟩,
        rxf := ⟨0, #v[0, 0, 0, 0, 0, 0, 0, 0]⟩,
        tlf := #v[⟨s.params.tlmBaseId + 1, #v[0, 0, 0, 0, 0, 0, 0, 0]⟩, ⟨s.params.tlmBaseId + 2, #v[0, 0, 0, 0, 0, 0, 0, 0]⟩,
          ⟨s.params.tlmBaseId + 3, #v[0, 0, 0, 0, 0, 0, 0, 0]⟩, ⟨s.params.tlmBaseId + 4, #v[0, 0, 0, 0, 0, 0, 0, 0]⟩],
        txl := ⟨s.params.txId, #v[0, 0, 0, 0, 0, 0, 0, 0]⟩ }

/-- The machine after reset has the parameter values 00_scope R6 lists for this hardware (log 21) and the block that the reset
event leaves with them (70_reset R271). -/
def Obligations.ResetStateIsWhatResetLeaves : Prop :=
  State.reset.params = { pctFrac := 8, encRound := .trunc, ovfPolicy := .error, txId := 0x200, tlmBaseId := 0x200 } ∧
  ∀ (s : State) (rest : List Agent), s.params = State.reset.params → s.env.schedule = .resetInput :: rest →
    ∃ t, step s = .next t ∧ t.block = State.reset.block

/-- A host read of each mapped register returns its word, recorded for the host, and changes nothing of the block (20_memory
R51, R55, R56, R59). The record of returned words is the model's own (log 5). -/
def Obligations.HostReadsReturnTheRegister : Prop :=
  ∀ (s : State) (rest : List Agent) (hs : List HostStep) (offset : Nat) (w : Word), (offset, w) ∈ registerMap s →
    hostMoves s rest (.read 32 offset) hs →
    step s = .next { s with env := { s.env with schedule := rest, host := hs, reads := s.env.reads ++ [w] } }

/-- The layout of STATUS: ERR's number in bits 3:0, IDMM in 4, TXPEND in 5, TLMV[1..4] in 8 to 11, every other bit 0
(10_state R26, R27, 60_exceptions R241). -/
def Obligations.StatusHasTheListedLayout : Prop :=
  ∀ b : Block, b.status.toNat =
    errNumber b.err + 16 * b.idmm.toNat + 32 * b.txpend.toNat + 256 * b.tlmv[0].toNat + 512 * b.tlmv[1].toNat +
      1024 * b.tlmv[2].toNat + 2048 * b.tlmv[3].toNat

/-- A host access that is not a 32-bit access at a mapped offset is an access error: the step faults (20_memory R52,
60_exceptions R255). -/
def Obligations.OtherHostAccessesFault : Prop :=
  ∀ (s : State) (rest : List Agent) (hs : List HostStep) (width offset : Nat) (w mask value : Word),
    (width ≠ 32 ∨ ∀ x, (offset, x) ∉ registerMap s) →
    (hostMoves s rest (.read width offset) hs → step s = .fault .hostAccessError) ∧
    (hostMoves s rest (.write width offset w) hs → step s = .fault .hostAccessError) ∧
    (width = 32 → hostMoves s rest (.poll offset mask value) hs → step s = .fault .hostAccessError)

/-- A host write of an operand register takes the low half of the word as a signed number and ignores the high half
(R55). -/
def Obligations.ArgWritesTakeTheLowHalf : Prop :=
  ∀ (s : State) (rest : List Agent) (hs : List HostStep) (i : Fin 5) (w : Word),
    hostMoves s rest (.write 32 (0x08 + 4 * i.val) w) hs →
    ∃ v : Code, v.toInt = (w.toNat : Int).bmod 65536 ∧
      step s = .next { s with
        block := { s.block with arg := s.block.arg.set i v }, env := { s.env with schedule := rest, host := hs } }

/-- A host write of a read-only register changes nothing, and a host write of STATUS clears IDMM if bit 4 of the word is 1
and ignores every other bit (R54, R58). -/
def Obligations.ReadOnlyAndStatusWrites : Prop :=
  ∀ (s : State) (rest : List Agent) (hs : List HostStep) (w : Word),
    (∀ offset ∈ [0x20, 0x24, 0x28, 0x30, 0x34], hostMoves s rest (.write 32 offset w) hs →
      ∃ t, step s = .next t ∧ t.block = s.block ∧ t.params = s.params ∧ t.env.sent = s.env.sent) ∧
    (hostMoves s rest (.write 32 0x04 w) hs →
      ∃ t, step s = .next t ∧ t.params = s.params ∧ t.env.sent = s.env.sent ∧
        t.block = { s.block with idmm := if w.toNat / 16 % 2 = 1 then false else s.block.idmm })

/-- A poll ends on the read that matches and stays the host's next step on one that does not, so a host may wait for ever
(30_encoding R90, 93 U11). That each of its reads is recorded is the model's own (log 5), and so is the form of a poll as a
pending step (log 8). -/
def Obligations.PollRepeatsUntilItMatches : Prop :=
  ∀ (s : State) (rest : List Agent) (hs : List HostStep) (offset : Nat) (w mask value : Word),
    (offset, w) ∈ registerMap s → hostMoves s rest (.poll offset mask value) hs →
    (w &&& mask = value →
      step s = .next { s with env := { s.env with schedule := rest, host := hs, reads := s.env.reads ++ [w] } }) ∧
    (w &&& mask ≠ value →
      step s = .next { s with env := { s.env with schedule := rest, reads := s.env.reads ++ [w] } })

/-! ### The whole machine -/

/-- The invariant holds after reset, for every setting of the parameters (70_reset R271, 10_state R32, R35, R36, R38). -/
def Obligations.InvariantHoldsAfterReset : Prop :=
  State.reset.Inv ∧ ∀ p : Params, (Block.reset p).Inv p

/-- Every step of every agent keeps the invariant and the parameters: TXF, TXL and TLF keep their fixed identifiers, every
speed code and every frame latched or sent stays in range, and a channel without telemetry stays zero-filled (00_scope R6,
10_state R32, R35, R36, R38). The spec marks the range of SPD (R32) and the identifier of TLF (R36) as its own inferences. -/
def Obligations.EveryStepKeepsTheInvariant : Prop :=
  ∀ s t : State, s.Inv → step s = .next t → t.Inv ∧ t.params = s.params

/-- No command body writes an operand register, a parameter or the surroundings, and each of SPD, RES, the frame stores,
TXPEND, TLMV and IDMM is written by the commands of R23's table alone; a failing command writes no RES (10_state R21, R22, R32,
R35, R37, R38; the spec marks R23 as its own inference from the command rules). ERR is written by every command. CMD is
written by every issue (R25): that `exec` finds the word there and leaves it is the model's own (log 14, DEDUCED: `issue`
stores CMD before `exec` runs), so the first clause says what CMD holds after the whole issue step. -/
def Obligations.CommandsWriteOnlyTheirElements : Prop :=
  (∀ (s t : State) (rest : List Agent) (hs : List HostStep) (w : Word), hostMoves s rest (.write 32 0x00 w) hs →
    step s = .next t → t.block.cmd = w) ∧
  ∀ (i : Instr) (s t : State), exec i s = .next t →
    t.params = s.params ∧ t.env = s.env ∧ t.block.cmd = s.block.cmd ∧ t.block.arg = s.block.arg ∧
    (∀ k : Fin 3, resultCount i ≤ k.val → t.block.res[k] = s.block.res[k]) ∧
    (failing t.block.err → t.block.res = s.block.res) ∧
    (i ∉ [Instr.shift, .turn, .tstmv] → t.block.spd = s.block.spd) ∧
    (i ≠ .send → t.block.txl = s.block.txl ∧ t.block.txpend = s.block.txpend) ∧
    (i ≠ .send → (∀ idx, i ≠ .fset 0 idx) → t.block.txf = s.block.txf) ∧
    ((∀ idx, i ≠ .fset 1 idx) → i ≠ .fnew 1 → t.block.rxf = s.block.rxf) ∧
    (i ≠ .fdbk → (∀ a, i ≠ .absorb a) → t.block.tlf = s.block.tlf ∧ t.block.tlmv = s.block.tlmv) ∧
    (i ≠ .fdbk → t.block.idmm = s.block.idmm)

/-- Nothing but reset clears TLMV, and only reset or a host write of STATUS with bit 4 set clears IDMM (10_state R28, R30). -/
def Obligations.StickyFlagsAreClearedOnlyAsListed : Prop :=
  ∀ s t : State, step s = .next t → s.env.schedule.head? ≠ some .resetInput →
    (∀ c : Fin 4, s.block.tlmv[c] = true → t.block.tlmv[c] = true) ∧
    (s.block.idmm = true → t.block.idmm = false →
      ∃ (rest : List Agent) (hs : List HostStep) (w : Word), hostMoves s rest (.write 32 0x04 w) hs ∧ w.toNat / 16 % 2 = 1)

/-- While TXPEND is 1 and no reset occurs, TXL does not change, and TXPEND is cleared only by an acceptance, which is also
the only thing that adds to the sent record (10_state R29, R38, 45_ports R222, R228, R229). -/
def Obligations.FrameInFlightIsStable : Prop :=
  ∀ s t : State, step s = .next t →
    (s.block.txpend = true → s.env.schedule.head? ≠ some .resetInput →
      t.block.txl = s.block.txl ∧ (t.block.txpend = true ∨ s.env.schedule.head? = some .tx)) ∧
    (t.env.sent = s.env.sent ∨
      s.env.schedule.head? = some .tx ∧ s.block.txpend = true ∧ t.block.txpend = false ∧
        t.env.sent = s.env.sent ++ [s.block.txl])

/-- In any step but reset at most one channel's telemetry changes, and then it is replaced whole by RXF, whose identifier is
the channel's (42_channel R145, 44_drive R189; the spec marks 45_ports R225 as its own inference from them). -/
def Obligations.AtMostOneChannelTakesAFrame : Prop :=
  ∀ s t : State, step s = .next t → s.env.schedule.head? ≠ some .resetInput →
    ∃ c : Fin 4,
      (∀ d : Fin 4, d ≠ c → t.block.tlf[d] = s.block.tlf[d] ∧ t.block.tlmv[d] = s.block.tlmv[d]) ∧
      ((t.block.tlf[c] = s.block.tlf[c] ∧ t.block.tlmv[c] = s.block.tlmv[c]) ∨
        (t.block.tlf[c] = t.block.rxf ∧ t.block.rxf.id = telemetryId s.params c ∧ t.block.tlmv[c] = true))

/-- Feedback and command state are kept apart: from two states that differ only in feedback state a step leaves the same
command state, and from two that differ only in command state it leaves the same feedback state. The spec marks
10_state R39 as its own inference from R20, R188, R190 and R225. -/
def Obligations.FeedbackAndCommandStateDoNotInterfere : Prop :=
  ∀ s₁ s₂ t₁ t₂ : State, s₁.params = s₂.params → s₁.env = s₂.env → s₁.block.arg = s₂.block.arg →
    step s₁ = .next t₁ → step s₂ = .next t₂ →
    (commandState s₁.block = commandState s₂.block → commandState t₁.block = commandState t₂.block) ∧
    (feedbackState s₁.block = feedbackState s₂.block → feedbackState t₁.block = feedbackState t₂.block)

/-- ERR is written by commands and reset alone: a step that is neither a write to CMD nor a reset leaves ERR and CMD as they
were (10_state R25, R27). -/
def Obligations.OnlyCommandsAndResetWriteErr : Prop :=
  ∀ s t : State, step s = .next t → s.env.schedule.head? ≠ some .resetInput →
    (∀ (rest : List Agent) (hs : List HostStep) (w : Word), ¬hostMoves s rest (.write 32 0x00 w) hs) →
    t.block.err = s.block.err ∧ t.block.cmd = s.block.cmd
end

