-- ==== Sys2Proof/Laws/State.lean ====
section
/-! SUPPORT. One lemma per field per update of the block and of the machine: what each setter writes and what it leaves. -/

namespace Sys2Proof.Machine

variable (b : Block)

/-! ### setCmd -/

@[simp] theorem Block.setCmd_cmd (w : Word) : (b.setCmd w).cmd = w := rfl
@[simp] theorem Block.setCmd_err (w : Word) : (b.setCmd w).err = b.err := rfl
@[simp] theorem Block.setCmd_idmm (w : Word) : (b.setCmd w).idmm = b.idmm := rfl
@[simp] theorem Block.setCmd_txpend (w : Word) : (b.setCmd w).txpend = b.txpend := rfl
@[simp] theorem Block.setCmd_tlmv (w : Word) : (b.setCmd w).tlmv = b.tlmv := rfl
@[simp] theorem Block.setCmd_arg (w : Word) : (b.setCmd w).arg = b.arg := rfl
@[simp] theorem Block.setCmd_res (w : Word) : (b.setCmd w).res = b.res := rfl
@[simp] theorem Block.setCmd_spd (w : Word) : (b.setCmd w).spd = b.spd := rfl
@[simp] theorem Block.setCmd_txf (w : Word) : (b.setCmd w).txf = b.txf := rfl
@[simp] theorem Block.setCmd_rxf (w : Word) : (b.setCmd w).rxf = b.rxf := rfl
@[simp] theorem Block.setCmd_tlf (w : Word) : (b.setCmd w).tlf = b.tlf := rfl
@[simp] theorem Block.setCmd_txl (w : Word) : (b.setCmd w).txl = b.txl := rfl

/-! ### setErr -/

@[simp] theorem Block.setErr_cmd (e : ErrCode) : (b.setErr e).cmd = b.cmd := rfl
@[simp] theorem Block.setErr_err (e : ErrCode) : (b.setErr e).err = e := rfl
@[simp] theorem Block.setErr_idmm (e : ErrCode) : (b.setErr e).idmm = b.idmm := rfl
@[simp] theorem Block.setErr_txpend (e : ErrCode) : (b.setErr e).txpend = b.txpend := rfl
@[simp] theorem Block.setErr_tlmv (e : ErrCode) : (b.setErr e).tlmv = b.tlmv := rfl
@[simp] theorem Block.setErr_arg (e : ErrCode) : (b.setErr e).arg = b.arg := rfl
@[simp] theorem Block.setErr_res (e : ErrCode) : (b.setErr e).res = b.res := rfl
@[simp] theorem Block.setErr_spd (e : ErrCode) : (b.setErr e).spd = b.spd := rfl
@[simp] theorem Block.setErr_txf (e : ErrCode) : (b.setErr e).txf = b.txf := rfl
@[simp] theorem Block.setErr_rxf (e : ErrCode) : (b.setErr e).rxf = b.rxf := rfl
@[simp] theorem Block.setErr_tlf (e : ErrCode) : (b.setErr e).tlf = b.tlf := rfl
@[simp] theorem Block.setErr_txl (e : ErrCode) : (b.setErr e).txl = b.txl := rfl

/-! ### setIdmm -/

@[simp] theorem Block.setIdmm_cmd (v : Bool) : (b.setIdmm v).cmd = b.cmd := rfl
@[simp] theorem Block.setIdmm_err (v : Bool) : (b.setIdmm v).err = b.err := rfl
@[simp] theorem Block.setIdmm_idmm (v : Bool) : (b.setIdmm v).idmm = v := rfl
@[simp] theorem Block.setIdmm_txpend (v : Bool) : (b.setIdmm v).txpend = b.txpend := rfl
@[simp] theorem Block.setIdmm_tlmv (v : Bool) : (b.setIdmm v).tlmv = b.tlmv := rfl
@[simp] theorem Block.setIdmm_arg (v : Bool) : (b.setIdmm v).arg = b.arg := rfl
@[simp] theorem Block.setIdmm_res (v : Bool) : (b.setIdmm v).res = b.res := rfl
@[simp] theorem Block.setIdmm_spd (v : Bool) : (b.setIdmm v).spd = b.spd := rfl
@[simp] theorem Block.setIdmm_txf (v : Bool) : (b.setIdmm v).txf = b.txf := rfl
@[simp] theorem Block.setIdmm_rxf (v : Bool) : (b.setIdmm v).rxf = b.rxf := rfl
@[simp] theorem Block.setIdmm_tlf (v : Bool) : (b.setIdmm v).tlf = b.tlf := rfl
@[simp] theorem Block.setIdmm_txl (v : Bool) : (b.setIdmm v).txl = b.txl := rfl

/-! ### setTxpend -/

@[simp] theorem Block.setTxpend_cmd (v : Bool) : (b.setTxpend v).cmd = b.cmd := rfl
@[simp] theorem Block.setTxpend_err (v : Bool) : (b.setTxpend v).err = b.err := rfl
@[simp] theorem Block.setTxpend_idmm (v : Bool) : (b.setTxpend v).idmm = b.idmm := rfl
@[simp] theorem Block.setTxpend_txpend (v : Bool) : (b.setTxpend v).txpend = v := rfl
@[simp] theorem Block.setTxpend_tlmv (v : Bool) : (b.setTxpend v).tlmv = b.tlmv := rfl
@[simp] theorem Block.setTxpend_arg (v : Bool) : (b.setTxpend v).arg = b.arg := rfl
@[simp] theorem Block.setTxpend_res (v : Bool) : (b.setTxpend v).res = b.res := rfl
@[simp] theorem Block.setTxpend_spd (v : Bool) : (b.setTxpend v).spd = b.spd := rfl
@[simp] theorem Block.setTxpend_txf (v : Bool) : (b.setTxpend v).txf = b.txf := rfl
@[simp] theorem Block.setTxpend_rxf (v : Bool) : (b.setTxpend v).rxf = b.rxf := rfl
@[simp] theorem Block.setTxpend_tlf (v : Bool) : (b.setTxpend v).tlf = b.tlf := rfl
@[simp] theorem Block.setTxpend_txl (v : Bool) : (b.setTxpend v).txl = b.txl := rfl

/-! ### setTlmv -/

@[simp] theorem Block.setTlmv_cmd (c : Fin 4) (v : Bool) : (b.setTlmv c v).cmd = b.cmd := rfl
@[simp] theorem Block.setTlmv_err (c : Fin 4) (v : Bool) : (b.setTlmv c v).err = b.err := rfl
@[simp] theorem Block.setTlmv_idmm (c : Fin 4) (v : Bool) : (b.setTlmv c v).idmm = b.idmm := rfl
@[simp] theorem Block.setTlmv_txpend (c : Fin 4) (v : Bool) : (b.setTlmv c v).txpend = b.txpend := rfl
@[simp] theorem Block.setTlmv_tlmv (c : Fin 4) (v : Bool) : (b.setTlmv c v).tlmv = b.tlmv.set c v := rfl
@[simp] theorem Block.setTlmv_arg (c : Fin 4) (v : Bool) : (b.setTlmv c v).arg = b.arg := rfl
@[simp] theorem Block.setTlmv_res (c : Fin 4) (v : Bool) : (b.setTlmv c v).res = b.res := rfl
@[simp] theorem Block.setTlmv_spd (c : Fin 4) (v : Bool) : (b.setTlmv c v).spd = b.spd := rfl
@[simp] theorem Block.setTlmv_txf (c : Fin 4) (v : Bool) : (b.setTlmv c v).txf = b.txf := rfl
@[simp] theorem Block.setTlmv_rxf (c : Fin 4) (v : Bool) : (b.setTlmv c v).rxf = b.rxf := rfl
@[simp] theorem Block.setTlmv_tlf (c : Fin 4) (v : Bool) : (b.setTlmv c v).tlf = b.tlf := rfl
@[simp] theorem Block.setTlmv_txl (c : Fin 4) (v : Bool) : (b.setTlmv c v).txl = b.txl := rfl

/-! ### setArg -/

@[simp] theorem Block.setArg_cmd (i : Fin 5) (v : Code) : (b.setArg i v).cmd = b.cmd := rfl
@[simp] theorem Block.setArg_err (i : Fin 5) (v : Code) : (b.setArg i v).err = b.err := rfl
@[simp] theorem Block.setArg_idmm (i : Fin 5) (v : Code) : (b.setArg i v).idmm = b.idmm := rfl
@[simp] theorem Block.setArg_txpend (i : Fin 5) (v : Code) : (b.setArg i v).txpend = b.txpend := rfl
@[simp] theorem Block.setArg_tlmv (i : Fin 5) (v : Code) : (b.setArg i v).tlmv = b.tlmv := rfl
@[simp] theorem Block.setArg_arg (i : Fin 5) (v : Code) : (b.setArg i v).arg = b.arg.set i v := rfl
@[simp] theorem Block.setArg_res (i : Fin 5) (v : Code) : (b.setArg i v).res = b.res := rfl
@[simp] theorem Block.setArg_spd (i : Fin 5) (v : Code) : (b.setArg i v).spd = b.spd := rfl
@[simp] theorem Block.setArg_txf (i : Fin 5) (v : Code) : (b.setArg i v).txf = b.txf := rfl
@[simp] theorem Block.setArg_rxf (i : Fin 5) (v : Code) : (b.setArg i v).rxf = b.rxf := rfl
@[simp] theorem Block.setArg_tlf (i : Fin 5) (v : Code) : (b.setArg i v).tlf = b.tlf := rfl
@[simp] theorem Block.setArg_txl (i : Fin 5) (v : Code) : (b.setArg i v).txl = b.txl := rfl

/-! ### setRes -/

@[simp] theorem Block.setRes_cmd (i : Fin 3) (v : Code) : (b.setRes i v).cmd = b.cmd := rfl
@[simp] theorem Block.setRes_err (i : Fin 3) (v : Code) : (b.setRes i v).err = b.err := rfl
@[simp] theorem Block.setRes_idmm (i : Fin 3) (v : Code) : (b.setRes i v).idmm = b.idmm := rfl
@[simp] theorem Block.setRes_txpend (i : Fin 3) (v : Code) : (b.setRes i v).txpend = b.txpend := rfl
@[simp] theorem Block.setRes_tlmv (i : Fin 3) (v : Code) : (b.setRes i v).tlmv = b.tlmv := rfl
@[simp] theorem Block.setRes_arg (i : Fin 3) (v : Code) : (b.setRes i v).arg = b.arg := rfl
@[simp] theorem Block.setRes_res (i : Fin 3) (v : Code) : (b.setRes i v).res = b.res.set i v := rfl
@[simp] theorem Block.setRes_spd (i : Fin 3) (v : Code) : (b.setRes i v).spd = b.spd := rfl
@[simp] theorem Block.setRes_txf (i : Fin 3) (v : Code) : (b.setRes i v).txf = b.txf := rfl
@[simp] theorem Block.setRes_rxf (i : Fin 3) (v : Code) : (b.setRes i v).rxf = b.rxf := rfl
@[simp] theorem Block.setRes_tlf (i : Fin 3) (v : Code) : (b.setRes i v).tlf = b.tlf := rfl
@[simp] theorem Block.setRes_txl (i : Fin 3) (v : Code) : (b.setRes i v).txl = b.txl := rfl

/-! ### setSpd -/

@[simp] theorem Block.setSpd_cmd (c : Fin 4) (v : Code) : (b.setSpd c v).cmd = b.cmd := rfl
@[simp] theorem Block.setSpd_err (c : Fin 4) (v : Code) : (b.setSpd c v).err = b.err := rfl
@[simp] theorem Block.setSpd_idmm (c : Fin 4) (v : Code) : (b.setSpd c v).idmm = b.idmm := rfl
@[simp] theorem Block.setSpd_txpend (c : Fin 4) (v : Code) : (b.setSpd c v).txpend = b.txpend := rfl
@[simp] theorem Block.setSpd_tlmv (c : Fin 4) (v : Code) : (b.setSpd c v).tlmv = b.tlmv := rfl
@[simp] theorem Block.setSpd_arg (c : Fin 4) (v : Code) : (b.setSpd c v).arg = b.arg := rfl
@[simp] theorem Block.setSpd_res (c : Fin 4) (v : Code) : (b.setSpd c v).res = b.res := rfl
@[simp] theorem Block.setSpd_spd (c : Fin 4) (v : Code) : (b.setSpd c v).spd = b.spd.set c v := rfl
@[simp] theorem Block.setSpd_txf (c : Fin 4) (v : Code) : (b.setSpd c v).txf = b.txf := rfl
@[simp] theorem Block.setSpd_rxf (c : Fin 4) (v : Code) : (b.setSpd c v).rxf = b.rxf := rfl
@[simp] theorem Block.setSpd_tlf (c : Fin 4) (v : Code) : (b.setSpd c v).tlf = b.tlf := rfl
@[simp] theorem Block.setSpd_txl (c : Fin 4) (v : Code) : (b.setSpd c v).txl = b.txl := rfl

/-! ### setTxfBytes -/

@[simp] theorem Block.setTxfBytes_cmd (v : Vector Byte 8) : (b.setTxfBytes v).cmd = b.cmd := rfl
@[simp] theorem Block.setTxfBytes_err (v : Vector Byte 8) : (b.setTxfBytes v).err = b.err := rfl
@[simp] theorem Block.setTxfBytes_idmm (v : Vector Byte 8) : (b.setTxfBytes v).idmm = b.idmm := rfl
@[simp] theorem Block.setTxfBytes_txpend (v : Vector Byte 8) : (b.setTxfBytes v).txpend = b.txpend := rfl
@[simp] theorem Block.setTxfBytes_tlmv (v : Vector Byte 8) : (b.setTxfBytes v).tlmv = b.tlmv := rfl
@[simp] theorem Block.setTxfBytes_arg (v : Vector Byte 8) : (b.setTxfBytes v).arg = b.arg := rfl
@[simp] theorem Block.setTxfBytes_res (v : Vector Byte 8) : (b.setTxfBytes v).res = b.res := rfl
@[simp] theorem Block.setTxfBytes_spd (v : Vector Byte 8) : (b.setTxfBytes v).spd = b.spd := rfl
@[simp] theorem Block.setTxfBytes_txf (v : Vector Byte 8) : (b.setTxfBytes v).txf = ⟨b.txf.id, v⟩ := rfl
@[simp] theorem Block.setTxfBytes_rxf (v : Vector Byte 8) : (b.setTxfBytes v).rxf = b.rxf := rfl
@[simp] theorem Block.setTxfBytes_tlf (v : Vector Byte 8) : (b.setTxfBytes v).tlf = b.tlf := rfl
@[simp] theorem Block.setTxfBytes_txl (v : Vector Byte 8) : (b.setTxfBytes v).txl = b.txl := rfl

/-! ### setRxf -/

@[simp] theorem Block.setRxf_cmd (f : Frame) : (b.setRxf f).cmd = b.cmd := rfl
@[simp] theorem Block.setRxf_err (f : Frame) : (b.setRxf f).err = b.err := rfl
@[simp] theorem Block.setRxf_idmm (f : Frame) : (b.setRxf f).idmm = b.idmm := rfl
@[simp] theorem Block.setRxf_txpend (f : Frame) : (b.setRxf f).txpend = b.txpend := rfl
@[simp] theorem Block.setRxf_tlmv (f : Frame) : (b.setRxf f).tlmv = b.tlmv := rfl
@[simp] theorem Block.setRxf_arg (f : Frame) : (b.setRxf f).arg = b.arg := rfl
@[simp] theorem Block.setRxf_res (f : Frame) : (b.setRxf f).res = b.res := rfl
@[simp] theorem Block.setRxf_spd (f : Frame) : (b.setRxf f).spd = b.spd := rfl
@[simp] theorem Block.setRxf_txf (f : Frame) : (b.setRxf f).txf = b.txf := rfl
@[simp] theorem Block.setRxf_rxf (f : Frame) : (b.setRxf f).rxf = f := rfl
@[simp] theorem Block.setRxf_tlf (f : Frame) : (b.setRxf f).tlf = b.tlf := rfl
@[simp] theorem Block.setRxf_txl (f : Frame) : (b.setRxf f).txl = b.txl := rfl

/-! ### setRxfBytes -/

@[simp] theorem Block.setRxfBytes_cmd (v : Vector Byte 8) : (b.setRxfBytes v).cmd = b.cmd := rfl
@[simp] theorem Block.setRxfBytes_err (v : Vector Byte 8) : (b.setRxfBytes v).err = b.err := rfl
@[simp] theorem Block.setRxfBytes_idmm (v : Vector Byte 8) : (b.setRxfBytes v).idmm = b.idmm := rfl
@[simp] theorem Block.setRxfBytes_txpend (v : Vector Byte 8) : (b.setRxfBytes v).txpend = b.txpend := rfl
@[simp] theorem Block.setRxfBytes_tlmv (v : Vector Byte 8) : (b.setRxfBytes v).tlmv = b.tlmv := rfl
@[simp] theorem Block.setRxfBytes_arg (v : Vector Byte 8) : (b.setRxfBytes v).arg = b.arg := rfl
@[simp] theorem Block.setRxfBytes_res (v : Vector Byte 8) : (b.setRxfBytes v).res = b.res := rfl
@[simp] theorem Block.setRxfBytes_spd (v : Vector Byte 8) : (b.setRxfBytes v).spd = b.spd := rfl
@[simp] theorem Block.setRxfBytes_txf (v : Vector Byte 8) : (b.setRxfBytes v).txf = b.txf := rfl
@[simp] theorem Block.setRxfBytes_rxf (v : Vector Byte 8) : (b.setRxfBytes v).rxf = ⟨b.rxf.id, v⟩ := rfl
@[simp] theorem Block.setRxfBytes_tlf (v : Vector Byte 8) : (b.setRxfBytes v).tlf = b.tlf := rfl
@[simp] theorem Block.setRxfBytes_txl (v : Vector Byte 8) : (b.setRxfBytes v).txl = b.txl := rfl

/-! ### setTlf -/

@[simp] theorem Block.setTlf_cmd (c : Fin 4) (f : Frame) : (b.setTlf c f).cmd = b.cmd := rfl
@[simp] theorem Block.setTlf_err (c : Fin 4) (f : Frame) : (b.setTlf c f).err = b.err := rfl
@[simp] theorem Block.setTlf_idmm (c : Fin 4) (f : Frame) : (b.setTlf c f).idmm = b.idmm := rfl
@[simp] theorem Block.setTlf_txpend (c : Fin 4) (f : Frame) : (b.setTlf c f).txpend = b.txpend := rfl
@[simp] theorem Block.setTlf_tlmv (c : Fin 4) (f : Frame) : (b.setTlf c f).tlmv = b.tlmv := rfl
@[simp] theorem Block.setTlf_arg (c : Fin 4) (f : Frame) : (b.setTlf c f).arg = b.arg := rfl
@[simp] theorem Block.setTlf_res (c : Fin 4) (f : Frame) : (b.setTlf c f).res = b.res := rfl
@[simp] theorem Block.setTlf_spd (c : Fin 4) (f : Frame) : (b.setTlf c f).spd = b.spd := rfl
@[simp] theorem Block.setTlf_txf (c : Fin 4) (f : Frame) : (b.setTlf c f).txf = b.txf := rfl
@[simp] theorem Block.setTlf_rxf (c : Fin 4) (f : Frame) : (b.setTlf c f).rxf = b.rxf := rfl
@[simp] theorem Block.setTlf_tlf (c : Fin 4) (f : Frame) : (b.setTlf c f).tlf = b.tlf.set c f := rfl
@[simp] theorem Block.setTlf_txl (c : Fin 4) (f : Frame) : (b.setTlf c f).txl = b.txl := rfl

/-! ### setTxl -/

@[simp] theorem Block.setTxl_cmd (f : Frame) : (b.setTxl f).cmd = b.cmd := rfl
@[simp] theorem Block.setTxl_err (f : Frame) : (b.setTxl f).err = b.err := rfl
@[simp] theorem Block.setTxl_idmm (f : Frame) : (b.setTxl f).idmm = b.idmm := rfl
@[simp] theorem Block.setTxl_txpend (f : Frame) : (b.setTxl f).txpend = b.txpend := rfl
@[simp] theorem Block.setTxl_tlmv (f : Frame) : (b.setTxl f).tlmv = b.tlmv := rfl
@[simp] theorem Block.setTxl_arg (f : Frame) : (b.setTxl f).arg = b.arg := rfl
@[simp] theorem Block.setTxl_res (f : Frame) : (b.setTxl f).res = b.res := rfl
@[simp] theorem Block.setTxl_spd (f : Frame) : (b.setTxl f).spd = b.spd := rfl
@[simp] theorem Block.setTxl_txf (f : Frame) : (b.setTxl f).txf = b.txf := rfl
@[simp] theorem Block.setTxl_rxf (f : Frame) : (b.setTxl f).rxf = b.rxf := rfl
@[simp] theorem Block.setTxl_tlf (f : Frame) : (b.setTxl f).tlf = b.tlf := rfl
@[simp] theorem Block.setTxl_txl (f : Frame) : (b.setTxl f).txl = f := rfl

/-! ### The machine -/

variable (s : State)

@[simp] theorem State.setBlock_params (x : Block) : (s.setBlock x).params = s.params := rfl
@[simp] theorem State.setBlock_block (x : Block) : (s.setBlock x).block = x := rfl
@[simp] theorem State.setBlock_env (x : Block) : (s.setBlock x).env = s.env := rfl
@[simp] theorem State.setEnv_params (x : Env) : (s.setEnv x).params = s.params := rfl
@[simp] theorem State.setEnv_block (x : Env) : (s.setEnv x).block = s.block := rfl
@[simp] theorem State.setEnv_env (x : Env) : (s.setEnv x).env = x := rfl

/-! ### The surroundings -/

variable (e : Env)

@[simp] theorem Env.popHost_schedule : e.popHost.schedule = e.schedule := rfl
@[simp] theorem Env.popHost_host : e.popHost.host = e.host.tail := rfl
@[simp] theorem Env.popHost_rx : e.popHost.rx = e.rx := rfl
@[simp] theorem Env.popHost_sent : e.popHost.sent = e.sent := rfl
@[simp] theorem Env.popHost_reads : e.popHost.reads = e.reads := rfl
@[simp] theorem Env.record_schedule (w : Word) : (e.record w).schedule = e.schedule := rfl
@[simp] theorem Env.record_host (w : Word) : (e.record w).host = e.host := rfl
@[simp] theorem Env.record_rx (w : Word) : (e.record w).rx = e.rx := rfl
@[simp] theorem Env.record_sent (w : Word) : (e.record w).sent = e.sent := rfl
@[simp] theorem Env.record_reads (w : Word) : (e.record w).reads = e.reads ++ [w] := rfl
@[simp] theorem Env.recordSent_schedule (f : Frame) : (e.recordSent f).schedule = e.schedule := rfl
@[simp] theorem Env.recordSent_host (f : Frame) : (e.recordSent f).host = e.host := rfl
@[simp] theorem Env.recordSent_rx (f : Frame) : (e.recordSent f).rx = e.rx := rfl
@[simp] theorem Env.recordSent_sent (f : Frame) : (e.recordSent f).sent = e.sent ++ [f] := rfl
@[simp] theorem Env.recordSent_reads (f : Frame) : (e.recordSent f).reads = e.reads := rfl
@[simp] theorem Env.popRx_schedule : e.popRx.schedule = e.schedule := rfl
@[simp] theorem Env.popRx_host : e.popRx.host = e.host := rfl
@[simp] theorem Env.popRx_rx : e.popRx.rx = e.rx.tail := rfl
@[simp] theorem Env.popRx_sent : e.popRx.sent = e.sent := rfl
@[simp] theorem Env.popRx_reads : e.popRx.reads = e.reads := rfl
@[simp] theorem Env.popSchedule_schedule : e.popSchedule.schedule = e.schedule.tail := rfl
@[simp] theorem Env.popSchedule_host : e.popSchedule.host = e.host := rfl
@[simp] theorem Env.popSchedule_rx : e.popSchedule.rx = e.rx := rfl
@[simp] theorem Env.popSchedule_sent : e.popSchedule.sent = e.sent := rfl
@[simp] theorem Env.popSchedule_reads : e.popSchedule.reads = e.reads := rfl

end Sys2Proof.Machine
end

