-- ==== Sys2Proof/Laws/Arith.lean ====
section
/-! SUPPORT. What the exact arithmetic can answer: the integer square root, Round, Fit and the ranges of the encoded codes. -/

namespace Sys2Proof.Machine

/-! ### Integer square root (R10) -/

theorem isqrtBits_spec (n : Nat) : ∀ bits r : Nat, r * r ≤ n → n < (r + 2 ^ bits) * (r + 2 ^ bits) →
    isqrtBits n bits r * isqrtBits n bits r ≤ n ∧ n < (isqrtBits n bits r + 1) * (isqrtBits n bits r + 1)
  | 0, r, lower, upper => by simpa [isqrtBits] using And.intro lower upper
  | bits + 1, r, lower, upper => by
    unfold isqrtBits
    split
    · next fits =>
      refine isqrtBits_spec n bits _ fits ?_
      have : r + 2 ^ bits + 2 ^ bits = r + 2 ^ (bits + 1) := by rw [pow_succ]; ring
      rwa [this]
    · next big => exact isqrtBits_spec n bits r lower (by omega)

theorem isqrt_upper_start (n : Nat) : n < (0 + 2 ^ (n.log2 / 2 + 1)) * (0 + 2 ^ (n.log2 / 2 + 1)) := by
  have h1 : n < 2 ^ (n.log2 + 1) := Nat.lt_log2_self
  have h2 : 2 ^ (n.log2 + 1) ≤ 2 ^ ((n.log2 / 2 + 1) + (n.log2 / 2 + 1)) :=
    Nat.pow_le_pow_right (by decide) (by omega)
  rw [zero_add, ← pow_add]
  exact lt_of_lt_of_le h1 h2

/-- `isqrt n` is the largest `k` with `k * k ≤ n` (R10). -/
theorem isqrt_spec (n : Nat) : isqrt n * isqrt n ≤ n ∧ n < (isqrt n + 1) * (isqrt n + 1) :=
  isqrtBits_spec n _ 0 (Nat.zero_le _) (isqrt_upper_start n)

/-- A bound on the root from a bound on the square. -/
theorem isqrt_le_of_le {n k : Nat} (h : n ≤ k * k) : isqrt n ≤ k := by
  by_contra big
  have := (isqrt_spec n).1
  have : (k + 1) * (k + 1) ≤ isqrt n * isqrt n := Nat.mul_le_mul (by omega) (by omega)
  nlinarith

/-! ### Round and Fit (R100, R101) -/

theorem le_tdiv_of_mul_le {num den lo : Int} (pos : 0 < den) (h : lo * den ≤ num) : lo ≤ num.tdiv den := by
  rcases le_or_gt 0 num with nonneg | neg
  · rw [Int.tdiv_eq_ediv_of_nonneg nonneg]; exact (Int.le_ediv_iff_mul_le pos).2 h
  · obtain ⟨m, rfl⟩ : ∃ m, num = -m := ⟨-num, by ring⟩
    rw [Int.neg_tdiv, Int.tdiv_eq_ediv_of_nonneg (by omega)]
    have : m / den ≤ -lo := by
      apply Int.ediv_le_of_le_mul pos; linarith
    omega

theorem tdiv_le_of_le_mul {num den hi : Int} (pos : 0 < den) (h : num ≤ hi * den) : num.tdiv den ≤ hi := by
  have := le_tdiv_of_mul_le (num := -num) (lo := -hi) pos (by linarith)
  rw [Int.neg_tdiv] at this
  omega

/-- Round keeps the bounds of what it rounds (R100, R101). -/
theorem roundDiv_bounds (r : Rounding) {num den lo hi : Int} (pos : 0 < den) (lower : lo * den ≤ num)
    (upper : num ≤ hi * den) : lo ≤ roundDiv r num den ∧ roundDiv r num den ≤ hi := by
  cases r with
  | trunc => exact ⟨le_tdiv_of_mul_le pos lower, tdiv_le_of_le_mul pos upper⟩
  | floor =>
    simp only [roundDiv]
    rw [Int.fdiv_eq_ediv_of_nonneg _ pos.le]
    exact ⟨(Int.le_ediv_iff_mul_le pos).2 lower, Int.ediv_le_of_le_mul pos upper⟩

/-- Everything Fit can answer (R101). -/
theorem fit_cases (pol : OvfPolicy) (num den c1 c2 : Int) :
    (min c1 c2 * den ≤ num ∧ num ≤ max c1 c2 * den ∧ fit pol num den c1 c2 = .ok num) ∨
    (¬(min c1 c2 * den ≤ num ∧ num ≤ max c1 c2 * den) ∧ pol = .error ∧ fit pol num den c1 c2 = .error .rangeOverflow) ∨
    (num < min c1 c2 * den ∧ pol = .clamp ∧ fit pol num den c1 c2 = .ok (min c1 c2 * den)) ∨
    (min c1 c2 * den ≤ num ∧ max c1 c2 * den < num ∧ pol = .clamp ∧ fit pol num den c1 c2 = .ok (max c1 c2 * den)) := by
  unfold fit
  by_cases inside : min c1 c2 * den ≤ num ∧ num ≤ max c1 c2 * den
  · exact .inl ⟨inside.1, inside.2, if_pos inside⟩
  · rw [if_neg inside]
    cases pol with
    | error => exact .inr (.inl ⟨inside, rfl, rfl⟩)
    | clamp =>
      by_cases low : num < min c1 c2 * den
      · exact .inr (.inr (.inl ⟨low, rfl, by simp [low]⟩))
      · exact .inr (.inr (.inr ⟨by omega, by omega, rfl, by simp [low]⟩))

/-- Within the codomain, the code is the rounded image (R100, R101). -/
theorem fitRound_inside (p : Params) {num den c1 c2 : Int} (lower : min c1 c2 * den ≤ num) (upper : num ≤ max c1 c2 * den) :
    fitRound p num den c1 c2 = .ok (roundDiv p.encRound num den) := by
  simp [fitRound, fit, lower, upper]

/-- Every answered code lies in the codomain (R101). -/
theorem fitRound_range {p : Params} {num den c1 c2 c : Int} (pos : 0 < den) (h : fitRound p num den c1 c2 = .ok c) :
    min c1 c2 ≤ c ∧ c ≤ max c1 c2 := by
  have order : min c1 c2 * den ≤ max c1 c2 * den := Int.mul_le_mul_of_nonneg_right (by omega) pos.le
  rcases fit_cases p.ovfPolicy num den c1 c2 with ⟨lower, upper, e⟩ | ⟨-, -, e⟩ | ⟨-, -, e⟩ | ⟨-, -, -, e⟩ <;>
    simp only [fitRound, e, Except.ok.injEq, reduceCtorEq] at h
  · exact h ▸ roundDiv_bounds _ pos lower upper
  · exact h ▸ roundDiv_bounds _ pos le_rfl order
  · exact h ▸ roundDiv_bounds _ pos order le_rfl

/-- An encode fails with RangeOverflow only (R101). -/
theorem fitRound_error {p : Params} {num den c1 c2 : Int} {e : ErrCode} (h : fitRound p num den c1 c2 = .error e) :
    e = .rangeOverflow := by
  rcases fit_cases p.ovfPolicy num den c1 c2 with ⟨-, -, r⟩ | ⟨-, -, r⟩ | ⟨-, -, r⟩ | ⟨-, -, -, r⟩ <;>
    simp [fitRound, r] at h
  exact h.symm

theorem affineEncode_range {p : Params} {vn vd dmin dmax cmin cmax c : Int} (pos : 0 < vd) (ne : dmax ≠ dmin)
    (h : affineEncode p vn vd dmin dmax cmin cmax = .ok c) : min cmin cmax ≤ c ∧ c ≤ max cmin cmax := by
  have : (dmax - dmin) * vd ≠ 0 := mul_ne_zero (sub_ne_zero.2 ne) pos.ne'
  unfold affineEncode at h
  split at h
  · exact fitRound_range (by omega) h
  · exact fitRound_range (by omega) h

theorem affineEncode_error {p : Params} {vn vd dmin dmax cmin cmax : Int} {e : ErrCode}
    (h : affineEncode p vn vd dmin dmax cmin cmax = .error e) : e = .rangeOverflow := by
  unfold affineEncode at h
  split at h <;> exact fitRound_error h

/-! ### Speed and wheel codes (R32, R142, R182) -/

/-- Every speed code lies in `[-16384, 16384]` (R32, R142). -/
theorem operandCode_range {p : Params} {P c : Int} (h : operandCode p P = .ok c) : -16384 ≤ c ∧ c ≤ 16384 := by
  unfold operandCode speedCode at h
  simpa using affineEncode_range (by positivity) (by decide) h

theorem operandCode_error {p : Params} {P : Int} {e : ErrCode} (h : operandCode p P = .error e) : e = .rangeOverflow := by
  unfold operandCode speedCode at h
  exact affineEncode_error h

/-- Everything WheelCode can answer (R182). -/
theorem wheelCode_cases (p : Params) (α β x y S : Int) :
    (wheelNum α β x y S * wheelNum α β x y S ≤ 16384 * 16384 * wheelDen p x y ∧
      wheelCode p α β x y S = .ok (roundRoot p.encRound (wheelNum α β x y S)
        (wheelNum α β x y S * wheelNum α β x y S).toNat (wheelDen p x y).toNat)) ∨
    (16384 * 16384 * wheelDen p x y < wheelNum α β x y S * wheelNum α β x y S ∧
      ((p.ovfPolicy = .error ∧ wheelCode p α β x y S = .error .rangeOverflow) ∨
       (p.ovfPolicy = .clamp ∧ wheelCode p α β x y S = .ok ((wheelNum α β x y S).sign * 16384)))) := by
  unfold wheelCode
  split
  · exact .inl ⟨‹_›, rfl⟩
  · refine .inr ⟨by omega, ?_⟩
    cases p.ovfPolicy
    · exact .inl ⟨rfl, rfl⟩
    · exact .inr ⟨rfl, rfl⟩

theorem wheelCode_error {p : Params} {α β x y S : Int} {e : ErrCode} (h : wheelCode p α β x y S = .error e) :
    e = .rangeOverflow := by
  rcases wheelCode_cases p α β x y S with ⟨-, r⟩ | ⟨-, ⟨-, r⟩ | ⟨-, r⟩⟩ <;> simp_all

theorem wheelDen_pos (p : Params) {x y : Int} (ne : ¬(x = 0 ∧ y = 0)) : 0 < wheelDen p x y := by
  have : 0 < x * x + y * y := by
    rcases not_and_or.1 ne with h | h
    · have := mul_self_pos.2 h; nlinarith [mul_self_nonneg y]
    · have := mul_self_pos.2 h; nlinarith [mul_self_nonneg x]
  unfold wheelDen
  positivity

/-- Round of a root that Fit passed stays in `[-16384, 16384]` (R101, R182). -/
theorem roundRoot_range (r : Rounding) (N : Int) {sq den : Nat} (h : sq ≤ 16384 * 16384 * den) :
    -16384 ≤ roundRoot r N sq den ∧ roundRoot r N sq den ≤ 16384 := by
  have quot : sq / den ≤ 16384 * 16384 := by
    apply Nat.div_le_of_le_mul; rwa [mul_comm]
  have root : isqrt (sq / den) ≤ 16384 := isqrt_le_of_le quot
  have square := (isqrt_spec (sq / den)).1
  have back : sq / den * den ≤ sq := Nat.div_mul_le_self sq den
  unfold roundRoot
  split
  · omega
  · split
    · omega
    · next inexact =>
      have : isqrt (sq / den) ≠ 16384 := by
        intro full
        apply inexact
        right
        rw [full] at square ⊢
        exact le_antisymm (le_trans (Nat.mul_le_mul_right den square) back) h
      omega

/-- Every wheel code lies in `[-16384, 16384]` (R32, R182). -/
theorem wheelCode_range {p : Params} {α β x y S c : Int} (ne : ¬(x = 0 ∧ y = 0)) (h : wheelCode p α β x y S = .ok c) :
    -16384 ≤ c ∧ c ≤ 16384 := by
  have pos := wheelDen_pos p ne
  rcases wheelCode_cases p α β x y S with ⟨fits, r⟩ | ⟨-, ⟨-, r⟩ | ⟨-, r⟩⟩
  · rw [r] at h
    cases h
    exact roundRoot_range _ _ (by omega)
  · simp [r] at h
  · rw [r] at h
    cases h
    rcases lt_trichotomy (wheelNum α β x y S) 0 with neg | zero | gt
    · rw [Int.sign_eq_neg_one_of_neg neg]; omega
    · rw [zero]; simp
    · rw [Int.sign_eq_one_of_pos gt]; omega

/-- A code in int16 is read back as the integer it was made of (R8). -/
theorem codeOf_toInt {v : Int} (lower : -32768 ≤ v) (upper : v ≤ 32767) : (codeOf v).toInt = v := by
  simp only [codeOf, BitVec.toInt_ofInt]
  exact Int.bmod_eq_of_le (by omega) (by omega)

end Sys2Proof.Machine
end

