-- ==== Sys2Proof/Laws/Decode.lean ====
section
/-! SUPPORT. What the decoder answers, and the masks of the opcode map read as arithmetic on the word. -/

namespace Sys2Proof

/-- A word that decodes selects a row of the map, and the command is what the row builds (30_encoding R83, R86). -/
theorem decode_ok {w : Word} {i : Instr} (h : decode w = .ok i) :
    ∃ r ∈ opRows, w &&& r.mask = r.code ∧ i = r.build (selOf w) (nOf w) := by
  unfold decode at h
  split at h
  · next r found =>
    cases h
    exact ⟨r, List.mem_of_find?_eq_some found, by simpa [OpRow.selects] using List.find?_some found, rfl⟩
  · cases h

/-- A word is illegal exactly when it selects no row (R84). -/
theorem decode_error_iff (w : Word) : (∃ e, decode w = .error e) ↔ ∀ r ∈ opRows, w &&& r.mask ≠ r.code := by
  have none_iff : opRows.find? (fun r => r.selects w) = none ↔ ∀ r ∈ opRows, w &&& r.mask ≠ r.code := by
    simp [List.find?_eq_none, OpRow.selects]
  unfold decode
  split
  · next r found => simp [← none_iff, found]
  · next found => simp [← none_iff, found]

/-- The SEL field is below 8 and the N field below 16 (R80). -/
theorem selOf_lt (w : Word) : selOf w < 8 := (w.extractLsb' 4 3).isLt
theorem nOf_lt (w : Word) : nOf w < 16 := (w.extractLsb' 0 4).isLt

/-! ### A word is its masked part and its fields (R81, R82) -/

theorem word_eq_maskZ (w : Word) : w = w &&& maskZ := by
  simp only [maskZ]
  ext i hi
  interval_cases i <;> simp

theorem word_eq_maskA (w : Word) : w = wordA (w &&& maskA) (nOf w) := by
  simp only [wordA, nOf, BitVec.ofNat_toNat, maskA]
  ext i hi
  interval_cases i <;> simp

theorem word_eq_maskS (w : Word) : w = wordS (w &&& maskS) (selOf w) := by
  simp only [wordS, selOf, BitVec.ofNat_toNat, maskS]
  ext i hi
  interval_cases i <;> simp

theorem word_eq_maskF (w : Word) : w = wordF (w &&& maskF) (selOf w) (nOf w) := by
  simp only [wordF, nOf, selOf, BitVec.ofNat_toNat, maskF]
  ext i hi
  interval_cases i <;> simp

/-! ### The masks as arithmetic (R81) -/

/-- Clearing the low `k` bits of a 32-bit number. -/
theorem and_high_bits (n k : Nat) (hn : n < 2 ^ 32) (hk : k ≤ 32) : n &&& (2 ^ 32 - 2 ^ k) = n / 2 ^ k * 2 ^ k := by
  have mask : 2 ^ 32 - 2 ^ k = (2 ^ (32 - k) - 1) * 2 ^ k := by
    rw [Nat.sub_mul, ← pow_add, Nat.sub_add_cancel hk, one_mul]
  apply Nat.eq_of_testBit_eq
  intro i
  rw [mask, Nat.testBit_and, Nat.testBit_mul_two_pow, Nat.testBit_mul_two_pow, Nat.testBit_div_two_pow,
    Nat.testBit_two_pow_sub_one]
  by_cases high : k ≤ i
  · by_cases inside : i - k < 32 - k
    · simp [high, inside]
    · have : n.testBit i = false :=
        Nat.testBit_lt_two_pow (lt_of_lt_of_le hn (Nat.pow_le_pow_right (by decide) (by omega)))
      simp [high, this]
  · simp [high]

theorem toNat_maskA (w : Word) : (w &&& maskA).toNat = w.toNat / 16 * 16 := by
  rw [BitVec.toNat_and]
  exact and_high_bits w.toNat 4 w.isLt (by decide)

theorem toNat_maskF (w : Word) : (w &&& maskF).toNat = w.toNat / 128 * 128 := by
  rw [BitVec.toNat_and]
  exact and_high_bits w.toNat 7 w.isLt (by decide)

theorem toNat_maskS (w : Word) : (w &&& maskS).toNat = w.toNat / 128 * 128 + w.toNat % 16 := by
  have parts : w &&& maskS = (w &&& maskF) ||| (w &&& 15#32) := by
    rw [← BitVec.and_or_distrib_left]; rfl
  have low : (w &&& 15#32).toNat = w.toNat % 16 := by
    rw [BitVec.toNat_and]
    exact Nat.and_two_pow_sub_one_eq_mod w.toNat 4
  have join := Nat.two_pow_add_eq_or_of_lt (i := 7) (b := w.toNat % 16) (by omega) (w.toNat / 128)
  rw [mul_comm] at join
  rw [parts, BitVec.toNat_or, toNat_maskF, low]
  exact join.symm

theorem selectsZ_iff (w c : Word) : w &&& maskZ = c ↔ w.toNat = c.toNat := by
  rw [← word_eq_maskZ]
  exact BitVec.toNat_inj.symm

theorem selectsA_iff (w c : Word) : w &&& maskA = c ↔ w.toNat / 16 * 16 = c.toNat := by
  rw [← BitVec.toNat_inj, toNat_maskA]

theorem selectsF_iff (w c : Word) : w &&& maskF = c ↔ w.toNat / 128 * 128 = c.toNat := by
  rw [← BitVec.toNat_inj, toNat_maskF]

theorem selectsS_iff (w c : Word) : w &&& maskS = c ↔ w.toNat / 128 * 128 + w.toNat % 16 = c.toNat := by
  rw [← BitVec.toNat_inj, toNat_maskS]

end Sys2Proof
end

