-- ==== Sys2Proof/Laws/Exact.lean ====
section
/-! SUPPORT. The integer forms of Round read as floor and ceiling of the exact rational or real image (40_codec R100, 44_drive R182). -/

namespace Sys2Proof.Machine

section Ordered

variable {K : Type} [Field K] [LinearOrder K] [IsStrictOrderedRing K] [FloorRing K]

/-- Floor of an integer quotient, in any ordered field. -/
theorem floor_intCast_div (num den : Int) (pos : 0 < den) : ⌊(num : K) / den⌋ = num / den := by
  have posK : (0 : K) < den := by exact_mod_cast pos
  rw [Int.floor_eq_iff, le_div_iff₀ posK, div_lt_iff₀ posK]
  constructor
  · exact_mod_cast Int.ediv_mul_le num pos.ne'
  · exact_mod_cast Int.lt_ediv_add_one_mul_self num pos

/-- Round toward minus infinity is the floor of the exact image (R100). -/
theorem roundDiv_floor_eq (num den : Int) (pos : 0 < den) : roundDiv .floor num den = ⌊(num : K) / den⌋ := by
  rw [floor_intCast_div num den pos]
  exact Int.fdiv_eq_ediv_of_nonneg num pos.le

/-- Round toward zero is the floor of a nonnegative image and the ceiling of a negative one (R100). -/
theorem roundDiv_trunc_eq (num den : Int) (pos : 0 < den) :
    roundDiv .trunc num den = if 0 ≤ (num : K) / den then ⌊(num : K) / den⌋ else ⌈(num : K) / den⌉ := by
  have posK : (0 : K) < den := by exact_mod_cast pos
  have sign : 0 ≤ (num : K) / den ↔ 0 ≤ num := by
    rw [le_div_iff₀ posK, zero_mul]
    exact_mod_cast Iff.rfl
  simp only [roundDiv, sign]
  split
  · next nonneg => rw [floor_intCast_div num den pos, Int.tdiv_eq_ediv_of_nonneg nonneg]
  · next neg =>
    obtain ⟨m, rfl⟩ : ∃ m, num = -m := ⟨-num, by ring⟩
    rw [Int.neg_tdiv, Int.tdiv_eq_ediv_of_nonneg (by omega), Int.cast_neg, neg_div, Int.ceil_neg,
      floor_intCast_div m den pos]

/-- Fit's integer comparison is the comparison of the exact image with the bound (R101). -/
theorem mul_le_iff_le_div {num den b : Int} (pos : 0 < den) : b * den ≤ num ↔ (b : K) ≤ (num : K) / den := by
  have posK : (0 : K) < den := by exact_mod_cast pos
  rw [le_div_iff₀ posK]
  exact_mod_cast Iff.rfl

theorem le_mul_iff_div_le {num den b : Int} (pos : 0 < den) : num ≤ b * den ↔ (num : K) / den ≤ (b : K) := by
  have posK : (0 : K) < den := by exact_mod_cast pos
  rw [div_le_iff₀ posK]
  exact_mod_cast Iff.rfl

end Ordered

/-! ### The root (R182) -/

/-- The floor of a nonnegative real whose square is `sq / den` is the integer root of the quotient. -/
theorem isqrt_div_spec {t : ℝ} {sq den : Nat} (pos : 0 < den) (nonneg : 0 ≤ t) (square : t * t = sq / den) :
    (isqrt (sq / den) : ℝ) ≤ t ∧ t < isqrt (sq / den) + 1 := by
  obtain ⟨lower, upper⟩ := isqrt_spec (sq / den)
  have posR : (0 : ℝ) < den := by exact_mod_cast pos
  have low : ((isqrt (sq / den) : ℝ)) * isqrt (sq / den) ≤ t * t := by
    rw [square, le_div_iff₀ posR]
    exact_mod_cast le_trans (Nat.mul_le_mul_right den lower) (Nat.div_mul_le_self sq den)
  have high : t * t < ((isqrt (sq / den) : ℝ) + 1) * (isqrt (sq / den) + 1) := by
    rw [square, div_lt_iff₀ posR]
    have : sq < (isqrt (sq / den) + 1) * (isqrt (sq / den) + 1) * den := by
      rw [← Nat.div_lt_iff_lt_mul pos]
      exact upper
    exact_mod_cast this
  exact ⟨abs_le_of_sq_le_sq' (by nlinarith) nonneg |>.2, lt_of_mul_self_lt_mul_self₀ (by positivity) high⟩

/-- R182's exactness test: the root is exact when its square times `den` is `sq`. -/
theorem isqrt_div_exact_iff {t : ℝ} {sq den : Nat} (pos : 0 < den) (nonneg : 0 ≤ t) (square : t * t = sq / den) :
    isqrt (sq / den) * isqrt (sq / den) * den = sq ↔ t = isqrt (sq / den) := by
  have posR : (0 : ℝ) < den := by exact_mod_cast pos
  have cast : isqrt (sq / den) * isqrt (sq / den) * den = sq ↔ ((isqrt (sq / den) : ℝ)) * isqrt (sq / den) = t * t := by
    rw [square, eq_div_iff posR.ne']
    exact_mod_cast Iff.rfl
  rw [cast, mul_self_inj (by positivity) nonneg]
  exact eq_comm

/-- Round of the exact real `t` with `t * t = sq / den` and the sign of `N` (R100, R182). -/
theorem roundRoot_trunc_eq {t : ℝ} {N : Int} {sq den : Nat} (pos : 0 < den) (square : t * t = sq / den)
    (sign : 0 ≤ t ↔ 0 ≤ N) : roundRoot .trunc N sq den = if 0 ≤ t then ⌊t⌋ else ⌈t⌉ := by
  by_cases nonneg : 0 ≤ t
  · obtain ⟨low, high⟩ := isqrt_div_spec pos nonneg square
    rw [roundRoot, if_pos (sign.1 nonneg), if_pos nonneg]
    exact (Int.floor_eq_iff.2 ⟨by exact_mod_cast low, by exact_mod_cast high⟩).symm
  · obtain ⟨low, high⟩ := isqrt_div_spec pos (t := -t) (by linarith) (by rw [← square]; ring)
    rw [roundRoot, if_neg (fun h => nonneg (sign.2 h)), if_pos (.inl rfl), if_neg nonneg]
    exact (Int.ceil_eq_iff.2 ⟨by push_cast; linarith, by push_cast; linarith⟩).symm

theorem roundRoot_floor_eq {t : ℝ} {N : Int} {sq den : Nat} (pos : 0 < den) (square : t * t = sq / den)
    (sign : 0 ≤ t ↔ 0 ≤ N) : roundRoot .floor N sq den = ⌊t⌋ := by
  by_cases nonneg : 0 ≤ t
  · obtain ⟨low, high⟩ := isqrt_div_spec pos nonneg square
    rw [roundRoot, if_pos (sign.1 nonneg)]
    exact (Int.floor_eq_iff.2 ⟨by exact_mod_cast low, by exact_mod_cast high⟩).symm
  · have square' : -t * -t = sq / den := by rw [← square]; ring
    obtain ⟨low, high⟩ := isqrt_div_spec pos (t := -t) (by linarith) square'
    have exact_iff := isqrt_div_exact_iff pos (t := -t) (by linarith) square'
    rw [roundRoot, if_neg (fun h => nonneg (sign.2 h))]
    split
    · next h =>
      have : -t = isqrt (sq / den) := exact_iff.1 (h.resolve_left (by decide))
      exact (Int.floor_eq_iff.2 ⟨by push_cast; linarith, by push_cast; linarith⟩).symm
    · next h =>
      have : -t ≠ isqrt (sq / den) := fun e => h (.inr (exact_iff.2 e))
      have strict : (isqrt (sq / den) : ℝ) < -t := lt_of_le_of_ne low this.symm
      exact (Int.floor_eq_iff.2 ⟨by push_cast; linarith, by push_cast; linarith⟩).symm

end Sys2Proof.Machine
end

