-- ==== Sys2Proof/Laws/Ops.lean ====
section
/-! SUPPORT. What the shared operations can do: how a command ends, the address decoder, byte access, Split and Join, Absorb, Dispatch and Assemble. -/

namespace Sys2Proof.Machine

/-! ### How a command ends (R87, R88, R247) -/

@[simp] theorem commit_raise (s : State) (e : ErrCode) : commit s (.raise e) = .next (s.setBlock (s.block.setErr e)) := rfl
@[simp] theorem commit_done (s : State) (b : Block) : commit s (.done b) = .next (s.setBlock (b.setErr .ok)) := rfl
@[simp] theorem commit_diag (s : State) (e : ErrCode) (b : Block) :
    commit s (.diag e b) = .next (s.setBlock (b.setErr e)) := rfl

/-- A command always ends in a next state. -/
theorem commit_next (s : State) (r : Result) : ∃ t, commit s r = .next t := by
  cases r <;> exact ⟨_, rfl⟩

@[simp] theorem withCode_ok (c : Int) (go : Int → Result) : withCode (.ok c) go = go c := rfl
@[simp] theorem withCode_error (e : ErrCode) (go : Int → Result) : withCode (.error e) go = .raise e := rfl

/-! ### Frame stores, byte indices, motor addresses (R34, R120, R140) -/

/-- An index below 8 names its byte. -/
theorem byteIndex?_lt {idx : Nat} (h : idx < 8) : byteIndex? idx = some ⟨idx, h⟩ := dif_pos h

theorem byteIndex?_ge {idx : Nat} (h : 8 ≤ idx) : byteIndex? idx = none := dif_neg (by omega)

/-- A channel's address is never 0 (R33). -/
@[simp] theorem addressOf_ne_zero (c : Fin 4) : addressOf c ≠ 0 := Nat.succ_ne_zero _

/-- An address in 1..4 names its channel (R33). -/
theorem channel?_addressOf (c : Fin 4) : channel? (addressOf c) = some c := by
  unfold channel? addressOf
  rw [dif_pos (by omega)]
  simp

theorem channel?_none {a : Nat} (h : ¬(1 ≤ a ∧ a ≤ 4)) : channel? a = none := dif_neg h

theorem channel?_inside {a : Nat} (h : 1 ≤ a ∧ a ≤ 4) : channel? a = some ⟨a - 1, by omega⟩ := dif_pos h

theorem store?_none {sel : Nat} (h : 6 < sel) : store? sel = none := by
  unfold store?
  split <;> first | omega | rfl

theorem byteStore?_none {sel : Nat} (h : 1 < sel) : byteStore? sel = none := by
  unfold byteStore?
  split <;> first | omega | rfl

/-! What a byte write leaves: everything but the bytes of TXF and RXF, their identifiers included (R122). -/

@[simp] theorem memWrite_cmd (b : Block) (st : ByteStore) (i : Fin 8) (v : Byte) : (memWrite b st i v).cmd = b.cmd := by
  cases st <;> rfl
@[simp] theorem memWrite_err (b : Block) (st : ByteStore) (i : Fin 8) (v : Byte) : (memWrite b st i v).err = b.err := by
  cases st <;> rfl
@[simp] theorem memWrite_idmm (b : Block) (st : ByteStore) (i : Fin 8) (v : Byte) : (memWrite b st i v).idmm = b.idmm := by
  cases st <;> rfl
@[simp] theorem memWrite_txpend (b : Block) (st : ByteStore) (i : Fin 8) (v : Byte) : (memWrite b st i v).txpend = b.txpend := by
  cases st <;> rfl
@[simp] theorem memWrite_tlmv (b : Block) (st : ByteStore) (i : Fin 8) (v : Byte) : (memWrite b st i v).tlmv = b.tlmv := by
  cases st <;> rfl
@[simp] theorem memWrite_arg (b : Block) (st : ByteStore) (i : Fin 8) (v : Byte) : (memWrite b st i v).arg = b.arg := by
  cases st <;> rfl
@[simp] theorem memWrite_res (b : Block) (st : ByteStore) (i : Fin 8) (v : Byte) : (memWrite b st i v).res = b.res := by
  cases st <;> rfl
@[simp] theorem memWrite_spd (b : Block) (st : ByteStore) (i : Fin 8) (v : Byte) : (memWrite b st i v).spd = b.spd := by
  cases st <;> rfl
@[simp] theorem memWrite_tlf (b : Block) (st : ByteStore) (i : Fin 8) (v : Byte) : (memWrite b st i v).tlf = b.tlf := by
  cases st <;> rfl
@[simp] theorem memWrite_txl (b : Block) (st : ByteStore) (i : Fin 8) (v : Byte) : (memWrite b st i v).txl = b.txl := by
  cases st <;> rfl
@[simp] theorem memWrite_txf_id (b : Block) (st : ByteStore) (i : Fin 8) (v : Byte) :
    (memWrite b st i v).txf.id = b.txf.id := by
  cases st <;> rfl
@[simp] theorem memWrite_rxf_id (b : Block) (st : ByteStore) (i : Fin 8) (v : Byte) :
    (memWrite b st i v).rxf.id = b.rxf.id := by
  cases st <;> rfl

/-- What `memWrite` does to the byte `j` of store `st'` (R62): the written byte changes, every other byte stays. -/
theorem memRead_memWrite_txf (b : Block) (i j : Fin 8) (v : Byte) (st' : Store) :
    memRead (memWrite b .txf i v) st' j = if st' = .txf ∧ i = j then v else memRead b st' j := by
  cases st' <;> simp [memRead, memWrite, Block.frame, Vector.getElem_set, Fin.val_inj]

theorem memRead_memWrite_rxf (b : Block) (i j : Fin 8) (v : Byte) (st' : Store) :
    memRead (memWrite b .rxf i v) st' j = if st' = .rxf ∧ i = j then v else memRead b st' j := by
  cases st' <;> simp [memRead, memWrite, Block.frame, Vector.getElem_set, Fin.val_inj]

/-! ### Split and Join (R103, R104) -/

/-- Joining the two bytes of a code gives the code back. -/
@[simp] theorem joinF_splitCode (c : Code) : joinF (splitCode c).1 (splitCode c).2 = c := by
  unfold joinF splitCode
  ext i hi
  simp only [BitVec.getElem_append, BitVec.getElem_extractLsb']
  split
  · simp [BitVec.getLsbD_eq_getElem hi]
  · rw [show 8 + (i - 8) = i by omega, BitVec.getLsbD_eq_getElem hi]

/-- Splitting a joined code gives the two bytes back. -/
@[simp] theorem splitCode_joinF (h l : Byte) : splitCode (joinF h l) = (h, l) := by
  have bits (j : Nat) : (joinF h l).getLsbD j = if j < 8 then l.getLsbD j else h.getLsbD (j - 8) :=
    BitVec.getLsbD_append
  refine Prod.ext ?_ ?_ <;> ext i hi
  · simp [splitCode, bits, hi]
  · simp [splitCode, bits, hi]

/-! ### Telemetry identifiers (R143) -/

/-- The four telemetry identifiers are distinct for every base. -/
theorem tidOf_injective (p : Params) {c d : Fin 4} (h : tidOf p c = tidOf p d) : c = d := by
  unfold tidOf tid at h
  have : BitVec.ofNat 32 (c.val + 1) = BitVec.ofNat 32 (d.val + 1) := by simpa using h
  revert this
  fin_cases c <;> fin_cases d <;> decide

/-! ### Absorb and Dispatch (R145, R189) -/

theorem absorb_match {p : Params} {c : Fin 4} {f : Frame} (b : Block) (h : f.id = tidOf p c) :
    absorb p c f b = ((b.setTlf c f).setTlmv c true, true) := if_pos h

theorem absorb_miss {p : Params} {c : Fin 4} {f : Frame} (b : Block) (h : f.id ≠ tidOf p c) :
    absorb p c f b = (b, false) := if_neg h

theorem dispatchStep_match {p : Params} {c : Fin 4} {f : Frame} (acc : Block × Nat) (h : f.id = tidOf p c) :
    dispatchStep p f acc c = ((acc.1.setTlf c f).setTlmv c true, addressOf c) := by
  simp [dispatchStep, absorb_match _ h]

theorem dispatchStep_miss {p : Params} {c : Fin 4} {f : Frame} (acc : Block × Nat) (h : f.id ≠ tidOf p c) :
    dispatchStep p f acc c = acc := by
  simp [dispatchStep, absorb_miss _ h]

/-- A frame with channel `c`'s identifier is taken by `c` alone (R189). -/
theorem dispatch_match {p : Params} {c : Fin 4} {f : Frame} (b : Block) (h : f.id = tidOf p c) :
    dispatch p f b = ((b.setTlf c f).setTlmv c true, addressOf c) := by
  have miss : ∀ d : Fin 4, d ≠ c → f.id ≠ tidOf p d := fun d ne e => ne (tidOf_injective p (e.symm.trans h))
  have offers : offerAll p f b = ((b.setTlf c f).setTlmv c true, addressOf c) := by
    simp only [offerAll, channels, List.foldl_cons, List.foldl_nil]
    match c, h, miss with
    | 0, h, miss => rw [dispatchStep_match _ h, dispatchStep_miss _ (miss 1 (by decide)),
        dispatchStep_miss _ (miss 2 (by decide)), dispatchStep_miss _ (miss 3 (by decide))]
    | 1, h, miss => rw [dispatchStep_miss _ (miss 0 (by decide)), dispatchStep_match _ h,
        dispatchStep_miss _ (miss 2 (by decide)), dispatchStep_miss _ (miss 3 (by decide))]
    | 2, h, miss => rw [dispatchStep_miss _ (miss 0 (by decide)), dispatchStep_miss _ (miss 1 (by decide)),
        dispatchStep_match _ h, dispatchStep_miss _ (miss 3 (by decide))]
    | 3, h, miss => rw [dispatchStep_miss _ (miss 0 (by decide)), dispatchStep_miss _ (miss 1 (by decide)),
        dispatchStep_miss _ (miss 2 (by decide)), dispatchStep_match _ h]
  unfold dispatch
  rw [offers]
  exact if_neg (addressOf_ne_zero c)

/-- A frame with no channel's identifier sets IDMM and nothing else (R189). -/
theorem dispatch_miss {p : Params} {f : Frame} (b : Block) (h : ∀ c : Fin 4, f.id ≠ tidOf p c) :
    dispatch p f b = (b.setIdmm true, 0) := by
  have offers : offerAll p f b = (b, 0) := by
    simp [offerAll, channels, dispatchStep_miss _ (h _)]
  simp [dispatch, offers]

/-- Everything Dispatch can do (R189). -/
theorem dispatch_cases (p : Params) (f : Frame) (b : Block) :
    (∃ c : Fin 4, f.id = tidOf p c ∧ dispatch p f b = ((b.setTlf c f).setTlmv c true, addressOf c)) ∨
    ((∀ c : Fin 4, f.id ≠ tidOf p c) ∧ dispatch p f b = (b.setIdmm true, 0)) := by
  by_cases some_match : ∃ c : Fin 4, f.id = tidOf p c
  · obtain ⟨c, h⟩ := some_match
    exact .inl ⟨c, h, dispatch_match b h⟩
  · rw [not_exists] at some_match
    exact .inr ⟨some_match, dispatch_miss b some_match⟩

/-! ### Assemble (R187) -/

/-- The assembled bytes: each channel's code, high byte first, in address order. -/
theorem assemble_eq (b : Block) : assemble b =
    #v[(splitCode b.spd[0]).1, (splitCode b.spd[0]).2, (splitCode b.spd[1]).1, (splitCode b.spd[1]).2,
       (splitCode b.spd[2]).1, (splitCode b.spd[2]).2, (splitCode b.spd[3]).1, (splitCode b.spd[3]).2] := by
  ext i hi
  simp only [assemble, channels, List.foldl_cons, List.foldl_nil, putCode, offsetHi, offsetLo]
  interval_cases i <;> simp

/-- The 16-bit field of the assembled bytes at a channel's offsets is the channel's code. -/
@[simp] theorem frameCode_assemble (b : Block) (id : Word) (c : Fin 4) : frameCode ⟨id, assemble b⟩ c = b.spd[c] := by
  unfold frameCode
  rw [assemble_eq]
  fin_cases c <;> simp [offsetHi, offsetLo]

end Sys2Proof.Machine
end

