-- ==== Sys2Proof/Laws/Exec.lean ====
section
/-! SUPPORT. Said once: everything a command can do to the machine, whichever command it is. -/

namespace Sys2Proof.Machine

/-- Everything a command can do to the block (10_state R23): fail and change only ERR, or complete in one of seven ways. -/
inductive Effect (p : Params) (b : Block) : Block → Prop where
  /-- an error: only ERR changes (R244) -/
  | failed (e : ErrCode) : Effect p b (b.setErr e)
  /-- only result registers are written, or nothing -/
  | results (r : Vector Code 3) : Effect p b { b with res := r, err := .ok }
  /-- FSET: one byte of TXF or RXF -/
  | byteWritten (st : ByteStore) (i : Fin 8) (v : Byte) : Effect p b ((memWrite b st i v).setErr .ok)
  /-- FNEW: RXF is created anew -/
  | created (id : Word) : Effect p b ((b.setRxf (Frame.zero id)).setErr .ok)
  /-- ABSORB or FDBK with a match: one channel takes RXF whole -/
  | absorbed (c : Fin 4) (v : Code) (h : b.rxf.id = tidOf p c) :
      Effect p b ((((b.setTlf c b.rxf).setTlmv c true).setRes 0 v).setErr .ok)
  /-- FDBK without a match: IDMM is set and the mismatch reported -/
  | mismatched (v : Code) (h : ∀ c : Fin 4, b.rxf.id ≠ tidOf p c) :
      Effect p b (((b.setIdmm true).setRes 0 v).setErr .identifierMismatch)
  /-- SHIFT, TURN or TSTMV: every channel's speed code is a code in range or the one it had -/
  | driven (v : Vector Code 4) (h : ∀ c : Fin 4, speedOk v[c] ∨ v[c] = b.spd[c]) :
      Effect p b { b with spd := v, err := .ok }
  /-- SEND: TXF is assembled and latched -/
  | latched (h : b.txpend = false) :
      Effect p b ((((b.setTxfBytes (assemble b)).setTxl ⟨p.txId, assemble b⟩).setTxpend true).setErr .ok)

/-- The command committed on `s` did one of these things. -/
abbrev DoesOnly (s : State) (o : Host.Outcome State Fault Refusal) : Prop :=
  ∃ b, o = .next (s.setBlock b) ∧ Effect s.params s.block b

theorem doesOnly_raise (s : State) (e : ErrCode) : DoesOnly s (commit s (.raise e)) := ⟨_, rfl, .failed e⟩

theorem doesOnly_setRes (s : State) (i : Fin 3) (v : Code) : DoesOnly s (commit s (.done (s.block.setRes i v))) :=
  ⟨_, rfl, .results _⟩

theorem doesOnly_setRes₂ (s : State) (i j : Fin 3) (v w : Code) :
    DoesOnly s (commit s (.done ((s.block.setRes i v).setRes j w))) := ⟨_, rfl, .results _⟩

theorem doesOnly_setRes₃ (s : State) (i j k : Fin 3) (v w x : Code) :
    DoesOnly s (commit s (.done (((s.block.setRes i v).setRes j w).setRes k x))) := ⟨_, rfl, .results _⟩

theorem doesOnly_withCode {s : State} {r : Except ErrCode Int} {go : Int → Result}
    (h : ∀ c, r = .ok c → DoesOnly s (commit s (go c))) : DoesOnly s (commit s (withCode r go)) := by
  cases r with
  | error e => exact doesOnly_raise s e
  | ok c => exact h c rfl

theorem doesOnly_readTelemetry (s : State) (a : Nat) (field : Fin 4 → Code) :
    DoesOnly s (commit s (readTelemetry s.block a field)) := by
  unfold readTelemetry
  split
  · exact doesOnly_raise s _
  · exact doesOnly_setRes₂ s _ _ _ _

/-- The four speed codes written by `setSpeeds`. -/
theorem setSpeeds_eq (b : Block) (c1 c2 c3 c4 : Int) :
    setSpeeds b c1 c2 c3 c4 = { b with spd := #v[codeOf c1, codeOf c2, codeOf c3, codeOf c4] } := by
  have : (((b.spd.set 0 (codeOf c1)).set 1 (codeOf c2)).set 2 (codeOf c3)).set 3 (codeOf c4) =
      #v[codeOf c1, codeOf c2, codeOf c3, codeOf c4] := by
    ext i hi
    interval_cases i <;> simp
  rw [← this]
  rfl

theorem speedOk_codeOf {c : Int} (h : -16384 ≤ c ∧ c ≤ 16384) : speedOk (codeOf c) := by
  rw [speedOk, codeOf_toInt (by omega) (by omega)]
  exact h

theorem doesOnly_setSpeeds (s : State) {c1 c2 c3 c4 : Int} (h1 : -16384 ≤ c1 ∧ c1 ≤ 16384) (h2 : -16384 ≤ c2 ∧ c2 ≤ 16384)
    (h3 : -16384 ≤ c3 ∧ c3 ≤ 16384) (h4 : -16384 ≤ c4 ∧ c4 ≤ 16384) :
    DoesOnly s (commit s (.done (setSpeeds s.block c1 c2 c3 c4))) := by
  refine ⟨_, rfl, ?_⟩
  rw [setSpeeds_eq]
  refine .driven _ fun c => .inl ?_
  fin_cases c
  exacts [speedOk_codeOf h1, speedOk_codeOf h2, speedOk_codeOf h3, speedOk_codeOf h4]

theorem execAbsorb_doesOnly (a : Nat) (s : State) : DoesOnly s (execAbsorb a s) := by
  unfold execAbsorb
  split
  · exact doesOnly_raise s _
  · next c _ =>
    by_cases h : s.block.rxf.id = tidOf s.params c
    · rw [absorb_match _ h]
      exact ⟨_, rfl, .absorbed c _ h⟩
    · rw [absorb_miss _ h]
      exact doesOnly_setRes s _ _

theorem execFdbk_doesOnly (s : State) : DoesOnly s (execFdbk s) := by
  unfold execFdbk
  rcases dispatch_cases s.params s.block.rxf s.block with ⟨c, h, e⟩ | ⟨h, e⟩
  · rw [e, if_neg (addressOf_ne_zero c)]
    exact ⟨_, rfl, .absorbed c _ h⟩
  · rw [e, if_pos rfl]
    exact ⟨_, rfl, .mismatched _ h⟩

theorem execShift_doesOnly (s : State) : DoesOnly s (execShift s) := by
  unfold execShift
  split
  · exact doesOnly_raise s _
  · next ne =>
    unfold shiftWheels
    split
    · next h1 h2 h3 h4 =>
      exact doesOnly_setSpeeds s (wheelCode_range ne h1) (wheelCode_range ne h2) (wheelCode_range ne h3) (wheelCode_range ne h4)
    · exact doesOnly_raise s _

theorem execTurn_doesOnly (s : State) : DoesOnly s (execTurn s) :=
  doesOnly_withCode fun _ h =>
    doesOnly_setSpeeds s (operandCode_range h) (operandCode_range h) (operandCode_range h) (operandCode_range h)

theorem execTstmv_doesOnly (s : State) : DoesOnly s (execTstmv s) := by
  refine doesOnly_withCode fun c1 h1 => doesOnly_withCode fun c3 h3 => ?_
  refine ⟨_, rfl, .driven ((s.block.spd.set 0 (codeOf c1)).set 2 (codeOf c3)) fun c => ?_⟩
  have ok1 := speedOk_codeOf (operandCode_range h1)
  have ok3 := speedOk_codeOf (operandCode_range h3)
  fin_cases c
  · exact .inl (by simpa using ok1)
  · exact .inr (by simp)
  · exact .inl (by simpa using ok3)
  · exact .inr (by simp)

/-- Every command answers a next state in which parameters and surroundings are as before and the block has undergone
one of the listed effects. -/
theorem exec_doesOnly (i : Instr) (s : State) : DoesOnly s (exec i s) := by
  cases i with
  | nop => exact ⟨_, rfl, .results s.block.res⟩
  | enc =>
    simp only [exec, execEnc]
    split
    · exact doesOnly_raise s _
    · exact doesOnly_withCode fun _ _ => doesOnly_setRes s _ _
  | split => exact doesOnly_setRes₂ s _ _ _ _
  | join =>
    simp only [exec, execJoin]
    split
    · exact doesOnly_setRes s _ _
    · exact doesOnly_raise s _
  | fget sel idx =>
    simp only [exec, execFget]
    split
    · exact doesOnly_raise s _
    · split
      · exact doesOnly_raise s _
      · exact doesOnly_setRes s _ _
  | fset sel idx =>
    simp only [exec, execFset]
    split
    · exact doesOnly_raise s _
    · split
      · exact doesOnly_raise s _
      · split
        · exact doesOnly_raise s _
        · exact ⟨_, rfl, .byteWritten _ _ _⟩
  | fid sel =>
    simp only [exec, execFid]
    split
    · exact doesOnly_raise s _
    · exact doesOnly_setRes₂ s _ _ _ _
  | fnew sel =>
    simp only [exec, execFnew]
    split
    · exact ⟨_, rfl, .created _⟩
    · exact doesOnly_raise s _
  | offs a =>
    simp only [exec, execOffs]
    split
    · exact doesOnly_raise s _
    · exact doesOnly_setRes₂ s _ _ _ _
  | encspd => exact doesOnly_withCode fun _ _ => doesOnly_setRes₃ s _ _ _ _ _ _
  | absorb a => exact execAbsorb_doesOnly a s
  | tang a => exact doesOnly_readTelemetry s a _
  | trpm a => exact doesOnly_readTelemetry s a _
  | tcur a => exact doesOnly_readTelemetry s a _
  | ttmp a => exact doesOnly_readTelemetry s a _
  | shift => exact execShift_doesOnly s
  | turn => exact execTurn_doesOnly s
  | tstmv => exact execTstmv_doesOnly s
  | send =>
    simp only [exec, execSend]
    split
    · exact doesOnly_raise s _
    · next h => exact ⟨_, rfl, .latched (by simpa using h)⟩
  | fdbk => exact execFdbk_doesOnly s

/-- Inversion: what a command that answered `t` did. -/
theorem exec_cases {i : Instr} {s t : State} (h : exec i s = .next t) :
    ∃ b, t = s.setBlock b ∧ Effect s.params s.block b := by
  obtain ⟨b, e, effect⟩ := exec_doesOnly i s
  rw [e] at h
  cases h
  exact ⟨b, rfl, effect⟩

end Sys2Proof.Machine
end

