-- ==== Sys2Proof/Laws/PerInstr.lean ====
section
/-! SUPPORT. A law of every command as syntax: the word of a well-formed command is legal, it selects a row of the opcode map. -/

namespace Sys2Proof.Laws.SelectsRow

/-- The word of a well-formed command selects a row of the opcode map (30_encoding R83), so it is no illegal word (R84). -/
def Statement (i : Instr) : Prop := i.WellFormed → opRows.any (fun r => r.selects (encode i)) = true

/-- A class F word with fields that fit selects its row. -/
theorem classF {code : Word} {build : Nat → Nat → Instr} (mem : OpRow.mk code maskF build ∈ opRows)
    (keeps : ∀ sel < 8, ∀ n < 16, wordF code sel n &&& maskF = code) {sel n : Nat} (fits : selFits sel ∧ nFits n) :
    opRows.any (fun r => r.selects (wordF code sel n)) = true :=
  List.any_eq_true.2 ⟨_, mem, beq_iff_eq.2 (keeps sel fits.1 n fits.2)⟩

/-- A class S word with a field that fits selects its row. -/
theorem classS {code : Word} {build : Nat → Nat → Instr} (mem : OpRow.mk code maskS build ∈ opRows)
    (keeps : ∀ sel < 8, wordS code sel &&& maskS = code) {sel : Nat} (fits : selFits sel) :
    opRows.any (fun r => r.selects (wordS code sel)) = true :=
  List.any_eq_true.2 ⟨_, mem, beq_iff_eq.2 (keeps sel fits)⟩

/-- A class A word with a field that fits selects its row. -/
theorem classA {code : Word} {build : Nat → Nat → Instr} (mem : OpRow.mk code maskA build ∈ opRows)
    (keeps : ∀ a < 16, wordA code a &&& maskA = code) {a : Nat} (fits : nFits a) :
    opRows.any (fun r => r.selects (wordA code a)) = true :=
  List.any_eq_true.2 ⟨_, mem, beq_iff_eq.2 (keeps a fits)⟩

theorem nop : Statement .nop := fun _ => by decide
theorem enc : Statement .enc := fun _ => by decide
theorem split : Statement .split := fun _ => by decide
theorem join : Statement .join := fun _ => by decide
theorem fget (sel idx : Nat) : Statement (.fget sel idx) := fun h =>
  classF (by simp [opRows, opRowsLow, opRowsHigh]; rfl) (by decide) (of_decide_eq_true h)
theorem fset (sel idx : Nat) : Statement (.fset sel idx) := fun h =>
  classF (by simp [opRows, opRowsLow, opRowsHigh]; rfl) (by decide) (of_decide_eq_true h)
theorem fid (sel : Nat) : Statement (.fid sel) := fun h =>
  classS (by simp [opRows, opRowsLow, opRowsHigh]; rfl) (by decide) (of_decide_eq_true h)
theorem fnew (sel : Nat) : Statement (.fnew sel) := fun h =>
  classS (by simp [opRows, opRowsLow, opRowsHigh]; rfl) (by decide) (of_decide_eq_true h)
theorem offs (a : Nat) : Statement (.offs a) := fun h =>
  classA (by simp [opRows, opRowsLow, opRowsHigh]; rfl) (by decide) (of_decide_eq_true h)
theorem encspd : Statement .encspd := fun _ => by decide
theorem absorb (a : Nat) : Statement (.absorb a) := fun h =>
  classA (by simp [opRows, opRowsLow, opRowsHigh]; rfl) (by decide) (of_decide_eq_true h)
theorem tang (a : Nat) : Statement (.tang a) := fun h =>
  classA (by simp [opRows, opRowsLow, opRowsHigh]; rfl) (by decide) (of_decide_eq_true h)
theorem trpm (a : Nat) : Statement (.trpm a) := fun h =>
  classA (by simp [opRows, opRowsLow, opRowsHigh]; rfl) (by decide) (of_decide_eq_true h)
theorem tcur (a : Nat) : Statement (.tcur a) := fun h =>
  classA (by simp [opRows, opRowsLow, opRowsHigh]; rfl) (by decide) (of_decide_eq_true h)
theorem ttmp (a : Nat) : Statement (.ttmp a) := fun h =>
  classA (by simp [opRows, opRowsLow, opRowsHigh]; rfl) (by decide) (of_decide_eq_true h)
theorem shift : Statement .shift := fun _ => by decide
theorem turn : Statement .turn := fun _ => by decide
theorem tstmv : Statement .tstmv := fun _ => by decide
theorem send : Statement .send := fun _ => by decide
theorem fdbk : Statement .fdbk := fun _ => by decide

end Sys2Proof.Laws.SelectsRow
end

