-- ==== Sys2Proof/Laws/Step.lean ====
section
/-! SUPPORT. Said once: everything a step of the machine can do, whichever agent makes it, and under which turn it can. -/

namespace Sys2Proof.Machine

/-- The host moves next, and its next step is the 32-bit write of `w` at `offset`. -/
abbrev hostWrites (s : State) (offset : Nat) (w : Word) : Prop :=
  s.env.schedule.head? = some .host ∧ s.env.host.head? = some (.write 32 offset w)

/-- Everything a step can do (45_ports R220): who makes it, and what it does to the parameters, the block and the sent
record. -/
inductive StepEffect (s t : State) : Prop where
  /-- nothing of the block changes: no agent moves, a read or poll, a write of a read-only register, an event not enabled -/
  | quiet (hp : t.params = s.params) (hb : t.block = s.block) (hs : t.env.sent = s.env.sent)
  /-- the transport takes TXL (R222) -/
  | accepted (turn : s.env.schedule.head? = some .tx) (pend : s.block.txpend = true) (hp : t.params = s.params)
      (hb : t.block = s.block.setTxpend false) (hs : t.env.sent = s.env.sent ++ [s.block.txl])
  /-- the transport delivers (R223) -/
  | delivered (turn : s.env.schedule.head? = some .rx) (d : Delivery) (next : s.env.rx.head? = some d)
      (hp : t.params = s.params) (hb : t.block = deliver s.params d s.block) (hs : t.env.sent = s.env.sent)
  /-- reset (R270) -/
  | reset (turn : s.env.schedule.head? = some .resetInput) (hp : t.params = s.params) (hb : t.block = Block.reset s.params)
      (hs : t.env.sent = s.env.sent)
  /-- the host writes STATUS (R58) -/
  | statusWritten (w : Word) (turn : hostWrites s 0x04 w) (hp : t.params = s.params) (hb : t.block = writeStatus s.block w)
      (hs : t.env.sent = s.env.sent)
  /-- the host writes an operand register (R55) -/
  | argWritten (i : Fin 5) (v : Code) (turn : s.env.schedule.head? = some .host) (hp : t.params = s.params)
      (hb : t.block = s.block.setArg i v) (hs : t.env.sent = s.env.sent)
  /-- the host issues a word that selects no command (R84, R86) -/
  | illegal (w : Word) (turn : hostWrites s 0x00 w) (hp : t.params = s.params)
      (hb : t.block = (s.block.setCmd w).setErr .illegalCommand) (hs : t.env.sent = s.env.sent)
  /-- the host issues a command (R86) -/
  | command (w : Word) (i : Instr) (turn : hostWrites s 0x00 w) (hd : decode w = .ok i) (hp : t.params = s.params)
      (hb : Effect s.params (s.block.setCmd w) t.block) (hs : t.env.sent = s.env.sent)

/-- An access that reaches CMD or STATUS is a 32-bit access at that register's one offset (R51, R52). -/
theorem hostAccess?_cmd {width offset : Nat} (h : hostAccess? width offset = some .cmd) : width = 32 ∧ offset = 0x00 := by
  unfold hostAccess? at h
  split at h
  · next fits => unfold hostReg? at h; split at h <;> simp_all
  · simp at h

theorem hostAccess?_status {width offset : Nat} (h : hostAccess? width offset = some .status) :
    width = 32 ∧ offset = 0x04 := by
  unfold hostAccess? at h
  split at h
  · next fits => unfold hostReg? at h; split at h <;> simp_all
  · simp at h

/-- What the write of a register does, `s₀` being the state before the host's step and `s` after it is taken from the list. -/
theorem writeReg_effect {r : HostReg} {w : Word} {s s₀ t : State} {width offset : Nat}
    (turn : s₀.env.schedule.head? = some .host) (next : s₀.env.host.head? = some (.write width offset w))
    (access : hostAccess? width offset = some r) (hp : s.params = s₀.params) (hb : s.block = s₀.block)
    (hs : s.env.sent = s₀.env.sent) (h : writeReg r w s = .next t) : StepEffect s₀ t := by
  cases r with
  | cmd =>
    obtain ⟨rfl, rfl⟩ := hostAccess?_cmd access
    simp only [writeReg, issue] at h
    split at h
    · next i hd =>
      obtain ⟨b, rfl, effect⟩ := exec_cases h
      exact .command w i ⟨turn, next⟩ hd hp (by simpa [hp, hb] using effect) hs
    · simp at h
      subst h
      exact .illegal w ⟨turn, next⟩ hp (by simp [hb]) hs
  | status =>
    obtain ⟨rfl, rfl⟩ := hostAccess?_status access
    simp [writeReg] at h
    subst h
    exact .statusWritten w ⟨turn, next⟩ hp (by simp [hb]) hs
  | arg i =>
    simp [writeReg] at h
    subst h
    exact .argWritten i _ turn hp (by simp [hb]; rfl) hs
  | res i => simp [writeReg] at h; subst h; exact .quiet hp hb hs
  | txid => simp [writeReg] at h; subst h; exact .quiet hp hb hs
  | tlmbase => simp [writeReg] at h; subst h; exact .quiet hp hb hs

theorem hostTurn_effect {s s₀ t : State} (turn : s₀.env.schedule.head? = some .host) (host : s.env.host = s₀.env.host)
    (hp : s.params = s₀.params) (hb : s.block = s₀.block) (hs : s.env.sent = s₀.env.sent) (h : hostTurn s = .next t) :
    StepEffect s₀ t := by
  unfold hostTurn at h
  split at h
  · simp at h; subst h; exact .quiet hp hb hs
  · split at h
    · simp at h
    · simp at h; subst h; exact .quiet hp hb hs
  · next steps =>
    split at h
    · simp at h
    · next r access =>
      exact writeReg_effect turn (by rw [← host, steps]; rfl) access (by simpa using hp) (by simpa using hb)
        (by simpa using hs) h
  · split at h
    · simp at h
    · split at h <;> (simp at h; subst h; exact .quiet hp hb hs)

theorem txTurn_effect {s s₀ t : State} (turn : s₀.env.schedule.head? = some .tx) (hp : s.params = s₀.params)
    (hb : s.block = s₀.block) (hs : s.env.sent = s₀.env.sent) (h : txTurn s = .next t) : StepEffect s₀ t := by
  unfold txTurn txOffer at h
  by_cases pend : s.block.txpend = true
  · simp [pend] at h
    subst h
    exact .accepted turn (hb ▸ pend) hp (by simp [hb]) (by simp [hs, hb])
  · simp [pend] at h
    subst h
    exact .quiet hp hb hs

theorem rxTurn_effect {s s₀ t : State} (turn : s₀.env.schedule.head? = some .rx) (rx : s.env.rx = s₀.env.rx)
    (hp : s.params = s₀.params) (hb : s.block = s₀.block) (hs : s.env.sent = s₀.env.sent) (h : rxTurn s = .next t) :
    StepEffect s₀ t := by
  unfold rxTurn at h
  split at h
  · simp at h; subst h; exact .quiet hp hb hs
  · next d _ pending =>
    simp at h
    subst h
    exact .delivered turn d (by rw [← rx, pending]; rfl) hp (by simp [hp, hb]) hs

/-- Inversion: what a step that answered `t` did. -/
theorem step_cases {s t : State} (h : step s = .next t) : StepEffect s t := by
  unfold step nextStep at h
  split at h
  · simp at h; subst h; exact .quiet rfl rfl rfl
  · next a rest e =>
    have turn : s.env.schedule.head? = some a := by rw [e]; rfl
    cases a with
    | host => exact hostTurn_effect turn (by simp) (by simp) (by simp) (by simp) h
    | tx => exact txTurn_effect turn (by simp) (by simp) (by simp) h
    | rx => exact rxTurn_effect turn (by simp) (by simp) (by simp) (by simp) h
    | resetInput =>
      simp [agentTurn, resetTurn] at h
      subst h
      exact .reset turn rfl rfl rfl

end Sys2Proof.Machine
end

