-- ==== Sys2Proof/Machine/Pseudo.lean ====
section
/-! DEFINITION. The host's assembler: command syntax, percentage literals and host steps by name (30_encoding R90), and the pseudo-instructions with their expansions into host steps (R91). -/

namespace Sys2Proof.Machine

/-- The byte offset of a register (R51). -/
def regOffset : HostReg → Nat
  | .cmd => 0x00
  | .status => 0x04
  | .arg i => 0x08 + 4 * i.val
  | .res i => 0x20 + 4 * i.val
  | .txid => 0x30
  | .tlmbase => 0x34

/-- A register by its name of R51. -/
def regNamed? : String → Option HostReg
  | "CMD" => some .cmd
  | "STATUS" => some .status
  | "ARG0" => some (.arg 0)
  | "ARG1" => some (.arg 1)
  | "ARG2" => some (.arg 2)
  | "ARG3" => some (.arg 3)
  | "ARG4" => some (.arg 4)
  | "RES0" => some (.res 0)
  | "RES1" => some (.res 1)
  | "RES2" => some (.res 2)
  | "TXID" => some .txid
  | "TLMBASE" => some .tlmbase
  | _ => none

/-- An operand as written: a number or a store name (R90). -/
inductive AsmArg where
  | num (n : Nat)
  | name (s : String)
deriving DecidableEq, Repr

/-- `sel` as a number 0 to 7 or a store name (R90). -/
def selArg? : AsmArg → Option Nat
  | .num n => if n ≤ 7 then some n else none
  | .name "TXF" => some 0
  | .name "RXF" => some 1
  | .name "TLF1" => some 2
  | .name "TLF2" => some 3
  | .name "TLF3" => some 4
  | .name "TLF4" => some 5
  | .name "TXL" => some 6
  | .name _ => none

/-- `idx` or `a`, a decimal number 0 to 15 (R90). -/
def nArg? : AsmArg → Option Nat
  | .num n => if n ≤ 15 then some n else none
  | .name _ => none

/-- A command line: mnemonic and field operands (R90). -/
def command? (mnemonic : String) (args : List AsmArg) : Option Instr :=
  match mnemonic, args with
  | "NOP", [] => some .nop
  | "ENC", [] => some .enc
  | "SPLIT", [] => some .split
  | "JOIN", [] => some .join
  | "FGET", [sel, idx] => (selArg? sel).bind fun s => (nArg? idx).map fun i => .fget s i
  | "FSET", [sel, idx] => (selArg? sel).bind fun s => (nArg? idx).map fun i => .fset s i
  | "FID", [sel] => (selArg? sel).map .fid
  | "FNEW", [sel] => (selArg? sel).map .fnew
  | "OFFS", [a] => (nArg? a).map .offs
  | "ENCSPD", [] => some .encspd
  | "ABSORB", [a] => (nArg? a).map .absorb
  | "TANG", [a] => (nArg? a).map .tang
  | "TRPM", [a] => (nArg? a).map .trpm
  | "TCUR", [a] => (nArg? a).map .tcur
  | "TTMP", [a] => (nArg? a).map .ttmp
  | "SHIFT", [] => some .shift
  | "TURN", [] => some .turn
  | "TSTMV", [] => some .tstmv
  | "SEND", [] => some .send
  | "FDBK", [] => some .fdbk
  | _, _ => none

/-- The word a signed value stands for in a write of an ARG register: `zext_32(pat_16(v))` (R90). -/
def argWord (v : Int) : Word := zextCode (codeOf v)

/-- The percentage literal `(num / den)%`: `p * 256`, legal only where that is an integer in int16 (R90). -/
def percent? (num : Int) (den : Nat) : Option Int :=
  if den ≠ 0 ∧ num * 256 % den = 0 ∧ -32768 ≤ num * 256 / den ∧ num * 256 / den ≤ 32767 then some (num * 256 / den) else none

/-- `WR <reg>, <word>` (R90). -/
def wr (r : HostReg) (w : Word) : HostStep := .write 32 (regOffset r) w

/-- `RD <reg>` (R90). -/
def rd (r : HostReg) : HostStep := .read 32 (regOffset r)

/-- `POLL <reg>, <mask>, <value>` (R90). -/
def poll (r : HostReg) (mask value : Word) : HostStep := .poll (regOffset r) mask value

/-- A command written as a host step: the write of its word to CMD (R57). -/
def issueStep (i : Instr) : HostStep := wr .cmd (encode i)

/-- The pseudo-instructions (R91), each named after the source API it stands for. Percentages are Q8.8 operands. -/
inductive Pseudo where
  | encode (v dmin dmax cmin cmax : Int)
  | split (c : Int)
  | join (h l : Int)
  | set (sel idx : Nat) (v : Int)
  | create (id : Word)
  | encodeSpeed (P : Int)
  | shift (x y S : Int)
  | turn (S : Int)
  | testMove (x : Int)
  | assembleAndSend
  | applyFeedback
  | clearDiag
deriving DecidableEq, Repr

/-- The host steps a pseudo-instruction stands for, in order (R91). -/
def Pseudo.expand : Pseudo → List HostStep
  | .encode v dmin dmax cmin cmax =>
    [wr (.arg 0) (argWord v), wr (.arg 1) (argWord dmin), wr (.arg 2) (argWord dmax), wr (.arg 3) (argWord cmin),
      wr (.arg 4) (argWord cmax), issueStep .enc]
  | .split c => [wr (.arg 0) (argWord c), issueStep .split]
  | .join h l => [wr (.arg 0) (argWord h), wr (.arg 1) (argWord l), issueStep .join]
  | .set sel idx v => [wr (.arg 0) (argWord v), issueStep (.fset sel idx)]
  | .create id => [wr (.arg 0) (argWord (idLow id).toInt), wr (.arg 1) (argWord (idHigh id).toInt), issueStep (.fnew 1)]
  | .encodeSpeed P => [wr (.arg 0) (argWord P), issueStep .encspd]
  | .shift x y S => [wr (.arg 0) (argWord x), wr (.arg 1) (argWord y), wr (.arg 2) (argWord S), issueStep .shift]
  | .turn S => [wr (.arg 0) (argWord S), issueStep .turn]
  | .testMove x => [wr (.arg 0) (argWord x), issueStep .tstmv]
  | .assembleAndSend => [poll .status 0x20 0, issueStep .send]
  | .applyFeedback => [issueStep .fdbk]
  | .clearDiag => [wr .status 0x10]

end Sys2Proof.Machine
end

