-- ==== Sys2Proof/Tests/Slice0.lean ====
section
/-! SUPPORT. Small tests of one step each, with results from 95_test_vectors.md, and for each obligation with hypotheses a witness that meets them. -/

namespace Sys2Proof.Tests

open Sys2Proof Sys2Proof.Machine Sys2Proof.Claims

/-! ### States to test on -/

/-- The reset state with the five operand registers set. -/
def withArgs (a0 a1 a2 a3 a4 : Code) : State :=
  State.reset.setBlock { State.reset.block with arg := #v[a0, a1, a2, a3, a4] }

/-- The same machine with other values of `ENC_ROUND` and `OVF_POLICY`. -/
def withPolicy (r : Rounding) (o : OvfPolicy) (s : State) : State :=
  { s with params := { s.params with encRound := r, ovfPolicy := o } }

/-- Reset with a frame in RXF. -/
def withRxf (f : Frame) : State := State.reset.setBlock (State.reset.block.setRxf f)

/-- Reset with a telemetry frame of channel `c + 1`, marked valid. -/
def withTlf (c : Fin 4) (f : Frame) : State := State.reset.setBlock ((State.reset.block.setTlf c f).setTlmv c true)

/-- Reset with four speed codes. -/
def withSpd (c1 c2 c3 c4 : Code) : State := State.reset.setBlock { State.reset.block with spd := #v[c1, c2, c3, c4] }

/-- Reset with a frame in flight. -/
def busy : State := State.reset.setBlock (State.reset.block.setTxpend true)

/-- A state in which the agent moves next. -/
def turnOf (a : Agent) (s : State) : State := s.setEnv { s.env with schedule := [a] }

/-- A state in which the host moves next and its one step is `h`. -/
def hostWith (h : HostStep) (s : State) : State := s.setEnv { s.env with schedule := [.host], host := [h] }

/-- A state in which the transport delivers `d` next. -/
def rxWith (d : Delivery) (s : State) : State := s.setEnv { s.env with schedule := [.rx], rx := [d] }

/-- The outcome is a next state with property `p`. -/
def gives (o : Host.Outcome State Fault Refusal) (p : State → Bool) : Bool :=
  match o with
  | .next t => p t
  | .fault _ => false
  | .refused _ => false

theorem gives_exists {o : Host.Outcome State Fault Refusal} {p : State → Bool} (h : gives o p = true) :
    ∃ t, o = .next t ∧ p t = true := by
  cases o with
  | next t => exact ⟨t, rfl, h⟩
  | fault r => exact absurd h Bool.false_ne_true
  | refused r => exact absurd h Bool.false_ne_true

/-- The outcome is the host access fault. -/
def faults (o : Host.Outcome State Fault Refusal) : Bool :=
  match o with
  | .next _ => false
  | .fault .hostAccessError => true
  | .refused _ => false

/-- The command completes with ERR = 0 and the three results. -/
def results (i : Instr) (s : State) (r0 r1 r2 : Int) : Bool :=
  gives (exec i s) fun t => decide (t.block.err = .ok ∧ t.block.res[0].toInt = r0 ∧ t.block.res[1].toInt = r1 ∧ t.block.res[2].toInt = r2)

/-- The command completes with ERR = 0 and the four speed codes. -/
def speeds (i : Instr) (s : State) (c1 c2 c3 c4 : Int) : Bool :=
  gives (exec i s) fun t => decide (t.block.err = .ok ∧ t.block.spd[0].toInt = c1 ∧ t.block.spd[1].toInt = c2 ∧
    t.block.spd[2].toInt = c3 ∧ t.block.spd[3].toInt = c4)

/-- The command ends with the code in ERR and nothing else changed. -/
def errs (i : Instr) (s : State) (e : ErrCode) : Bool :=
  gives (exec i s) fun t => decide (t = s.setBlock (s.block.setErr e))

/-! ### Well-formedness: an ill-formed term for each check -/

theorem test_wf_fget_sel : (Instr.fget 8 0).wf = false := by decide
theorem test_wf_fget_idx : (Instr.fget 0 16).wf = false := by decide
theorem test_wf_fset_sel : (Instr.fset 8 0).wf = false := by decide
theorem test_wf_fset_idx : (Instr.fset 0 16).wf = false := by decide
theorem test_wf_fid : (Instr.fid 8).wf = false := by decide
theorem test_wf_fnew : (Instr.fnew 8).wf = false := by decide
theorem test_wf_offs : (Instr.offs 16).wf = false := by decide
theorem test_wf_absorb : (Instr.absorb 16).wf = false := by decide
theorem test_wf_tang : (Instr.tang 16).wf = false := by decide
theorem test_wf_trpm : (Instr.trpm 16).wf = false := by decide
theorem test_wf_tcur : (Instr.tcur 16).wf = false := by decide
theorem test_wf_ttmp : (Instr.ttmp 16).wf = false := by decide

/-! ### Decoding: words written out from the opcode map of R83 -/

theorem test_decode_nop : decode 0x00000000 = .ok .nop := by decide
theorem test_decode_enc : decode 0x01000000 = .ok .enc := by decide
theorem test_decode_split : decode 0x02000000 = .ok .split := by decide
theorem test_decode_join : decode 0x03000000 = .ok .join := by decide
/-- 0001 0000, RSV 0, sel 110, idx 0111 -/
theorem test_decode_fget : decode 0b00010000000000000000000001100111 = .ok (.fget 6 7) := by decide
/-- 0001 0001, RSV 0, sel 001, idx 1111 -/
theorem test_decode_fset : decode 0b00010001000000000000000000011111 = .ok (.fset 1 15) := by decide
/-- 0001 0010, RSV 0, sel 101, N 0000 -/
theorem test_decode_fid : decode 0b00010010000000000000000001010000 = .ok (.fid 5) := by decide
/-- 0001 0011, RSV 0, sel 001, N 0000 -/
theorem test_decode_fnew : decode 0b00010011000000000000000000010000 = .ok (.fnew 1) := by decide
/-- 0010 0000, RSV 0, SEL 000, a 1000 -/
theorem test_decode_offs : decode 0b00100000000000000000000000001000 = .ok (.offs 8) := by decide
theorem test_decode_encspd : decode 0x21000000 = .ok .encspd := by decide
theorem test_decode_absorb : decode 0x22000002 = .ok (.absorb 2) := by decide
theorem test_decode_tang : decode 0x30000003 = .ok (.tang 3) := by decide
theorem test_decode_trpm : decode 0x31000001 = .ok (.trpm 1) := by decide
theorem test_decode_tcur : decode 0x3200000F = .ok (.tcur 15) := by decide
theorem test_decode_ttmp : decode 0x33000004 = .ok (.ttmp 4) := by decide
theorem test_decode_shift : decode 0x40000000 = .ok .shift := by decide
theorem test_decode_turn : decode 0x41000000 = .ok .turn := by decide
theorem test_decode_tstmv : decode 0x42000000 = .ok .tstmv := by decide
theorem test_decode_send : decode 0x43000000 = .ok .send := by decide
theorem test_decode_fdbk : decode 0x44000000 = .ok .fdbk := by decide

/-- L2.1: an unassigned OPC, RSV bits 7 and 23, and a field each class does not use. -/
theorem test_decode_illegal :
    decode 0x04000000 = .error .unknownOpcode ∧ decode 0xFF000000 = .error .unknownOpcode ∧
    decode 0x40000080 = .error .reservedBits ∧ decode 0x43800000 = .error .reservedBits ∧
    decode 0x00000001 = .error .unusedField ∧ decode 0x20000010 = .error .unusedField ∧
    decode 0x12000011 = .error .unusedField := by decide

theorem test_decodeTableWord : decodeTableWord 32 0x10000067 = some (.fget 6 7) := by decide
theorem test_decodeTableWord_illegal : decodeTableWord 32 0x04000000 = none := by decide

/-- Each row's word, as the encoder builds it. -/
theorem test_encode : encode (.fget 6 7) = 0x10000067 ∧ encode (.fid 6) = 0x12000060 ∧ encode (.ttmp 3) = 0x33000003 := by
  decide

/-! ### One step of each command -/

theorem test_nop : errs .nop (State.reset.setBlock (State.reset.block.setErr .txBusy)) .ok = true := by decide
/-- L2.3 -/
theorem test_enc_trunc : results .enc (withArgs (-30) (-100) 100 (-16384) 16384) (-4915) 0 0 = true := by decide
theorem test_enc_descending : results .enc (withArgs 2 3 0 0 9) 3 0 0 = true := by decide
theorem test_split : results .split (withArgs (-4915) 0 0 0 0) (-20) (-51) 0 = true := by decide
theorem test_join : results .join (withArgs 1 (-128) 0 0 0) 384 0 0 = true := by decide
theorem test_join_range : errs .join (withArgs 0 (-129) 0 0 0) .rangeOverflow = true := by decide
/-- L2.4, L2.6 -/
theorem test_fget_signed : results (.fget 5 6) (withTlf 3 ⟨0x204, #v[0x80, 0, 0xFF, 0xFF, 0x7F, 0xFF, 0xC8, 0x55]⟩) (-56) 0 0 = true := by
  decide
theorem test_fget_sel_before_idx : errs (.fget 7 15) State.reset .illegalCommand = true := by decide
theorem test_fset : gives (exec (.fset 1 7) (withArgs (-1) 0 0 0 0)) (fun t =>
    decide (t.block.rxf = ⟨0, #v[0, 0, 0, 0, 0, 0, 0, 0xFF]⟩)) = true := by decide
theorem test_fset_idx_before_value : errs (.fset 1 9) (withArgs 200 0 0 0 0) .indexOutOfBounds = true := by decide
theorem test_fid : results (.fid 6) State.reset 512 0 0 = true := by decide
theorem test_fid_high : results (.fid 1) (withRxf ⟨0x80000000, #v[0, 0, 0, 0, 0, 0, 0, 0]⟩) 0 (-32768) 0 = true := by decide
theorem test_fnew : gives (exec (.fnew 1) (withArgs 0xFFFF 0x7FFF 0 0 0)) (fun t =>
    decide (t.block.rxf = ⟨0x7FFFFFFF, #v[0, 0, 0, 0, 0, 0, 0, 0]⟩)) = true := by decide
theorem test_fnew_txf : errs (.fnew 0) State.reset .illegalCommand = true := by decide
/-- L2.5 -/
theorem test_offs : results (.offs 4) State.reset 6 7 0 = true := by decide
theorem test_offs_zero : errs (.offs 0) State.reset .indexOutOfBounds = true := by decide
theorem test_encspd : results .encspd (withArgs (-256) 0 0 0 0) (-1) 93 (-163) = true := by decide
theorem test_encspd_range : errs .encspd (withArgs 25601 0 0 0 0) .rangeOverflow = true := by decide
theorem test_absorb : gives (exec (.absorb 2) (withRxf ⟨0x202, #v[1, 2, 3, 4, 5, 6, 7, 8]⟩)) (fun t =>
    decide (t.block.tlf[1] = ⟨0x202, #v[1, 2, 3, 4, 5, 6, 7, 8]⟩ ∧ t.block.tlmv = #v[false, true, false, false] ∧
      t.block.res[0] = 1)) = true := by decide
theorem test_absorb_other : results (.absorb 1) (withRxf ⟨0x202, #v[1, 2, 3, 4, 5, 6, 7, 8]⟩) 0 0 0 = true := by decide
/-- L2.6 -/
def telemetry3 : State := withTlf 2 ⟨0x203, #v[0x1F, 0xFF, 0xFE, 0x0C, 0x13, 0x33, 0x28, 0]⟩
theorem test_tang : results (.tang 3) telemetry3 8191 1 0 = true := by decide
theorem test_trpm : results (.trpm 3) telemetry3 (-500) 1 0 = true := by decide
theorem test_tcur : results (.tcur 3) telemetry3 4915 1 0 = true := by decide
theorem test_ttmp : results (.ttmp 3) telemetry3 40 1 0 = true := by decide
theorem test_tang_none : results (.tang 1) telemetry3 0 0 0 = true := by decide
/-- L2.7 -/
theorem test_shift : speeds .shift (withArgs 50 50 7680 0 0) 4915 0 (-4915) 0 = true := by decide
theorem test_shift_floor :
    speeds .shift (withPolicy .floor .error (withArgs 3 4 12800 0 0)) 8109 1158 (-8110) (-1159) = true := by decide
theorem test_turn : speeds .turn (withArgs (-12800) 0 0 0 0) (-8192) (-8192) (-8192) (-8192) = true := by decide
theorem test_turn_clamp : speeds .turn (withPolicy .trunc .clamp (withArgs 25601 0 0 0 0)) 16384 16384 16384 16384 = true := by
  decide
theorem test_tstmv : speeds .tstmv (withPolicy .floor .error (withArgs (-1) 0 0 0 0)) (-1) 0 0 0 = true := by decide
theorem test_tstmv_negation : errs .tstmv (withArgs (-32768) 0 0 0 0) .rangeOverflow = true := by decide
theorem test_send : gives (exec .send (withSpd 4915 0 (-4915) 0)) (fun t =>
    decide (t.block.txl = ⟨0x200, #v[0x13, 0x33, 0, 0, 0xEC, 0xCD, 0, 0]⟩ ∧ t.block.txf = t.block.txl ∧ t.block.txpend)) = true := by
  decide
theorem test_send_busy : errs .send busy .txBusy = true := by decide
theorem test_fdbk : gives (exec .fdbk (withRxf ⟨0x204, #v[9, 0, 0, 0, 0, 0, 0, 0]⟩)) (fun t =>
    decide (t.block.res[0] = 4 ∧ t.block.tlf[3] = t.block.rxf ∧ t.block.tlmv = #v[false, false, false, true] ∧
      t.block.err = .ok)) = true := by decide
theorem test_fdbk_tx_identifier : gives (exec .fdbk (withRxf ⟨0x200, #v[9, 0, 0, 0, 0, 0, 0, 0]⟩)) (fun t =>
    decide (t.block.res[0] = 0 ∧ t.block.err = .identifierMismatch ∧ t.block.idmm ∧ t.block.tlf = State.reset.block.tlf)) =
      true := by decide

/-! ### Host, ports, reset, assembler -/

/-- L2.2 -/
theorem test_write_arg : gives (step (hostWith (.write 32 0x08 0x12348000) State.reset)) (fun t =>
    decide (t.block.arg[0].toInt = -32768)) = true := by decide
theorem test_read_arg : gives (step (hostWith (.read 32 0x0C) (withArgs 0 (-1) 0 0 0))) (fun t =>
    decide (t.env.reads = [0x0000FFFF])) = true := by decide
theorem test_access_errors :
    faults (step (hostWith (.read 32 0x02) State.reset)) = true ∧ faults (step (hostWith (.read 16 0x00) State.reset)) = true ∧
    faults (step (hostWith (.read 32 0x1C) State.reset)) = true ∧ faults (step (hostWith (.write 32 0x40 0) State.reset)) = true := by
  decide
theorem test_illegal_command_keeps_word : gives (step (hostWith (.write 32 0x00 0x04000000) State.reset)) (fun t =>
    decide (t.block = { State.reset.block with cmd := 0x04000000, err := .illegalCommand })) = true := by decide
theorem test_write_status : gives (step (hostWith (.write 32 0x04 0xFFFFFFFF)
    (State.reset.setBlock { State.reset.block with err := .identifierMismatch, idmm := true, txpend := true }))) (fun t =>
    decide (t.block.status = 0x00000024)) = true := by decide
/-- L2.8 -/
theorem test_rx_short : gives (step (rxWith ⟨0x202, [0x7F, 0x80]⟩ State.reset)) (fun t =>
    decide (t.block.rxf = ⟨0x202, #v[0x7F, 0x80, 0, 0, 0, 0, 0, 0]⟩ ∧ t.block.tlf[1] = t.block.rxf ∧ t.block.tlmv[1])) = true := by
  decide
theorem test_rx_long : gives (step (rxWith ⟨0x201, [1, 2, 3, 4, 5, 6, 7, 8, 9, 10]⟩ State.reset)) (fun t =>
    decide (t.block.rxf = ⟨0x201, #v[1, 2, 3, 4, 5, 6, 7, 8]⟩)) = true := by decide
theorem test_tx_accept : gives (step (turnOf .tx busy)) (fun t =>
    decide (t.env.sent = [⟨0x200, #v[0, 0, 0, 0, 0, 0, 0, 0]⟩] ∧ t.block.txpend = false)) = true := by decide
theorem test_reset_drops_frame : gives (step (turnOf .resetInput busy)) (fun t =>
    decide (t.block = State.reset.block ∧ t.env.sent = [])) = true := by decide
/-- R90: percentage literals. -/
theorem test_percent : percent? 30 1 = some 7680 ∧ percent? 1 3 = none ∧ percent? 128 1 = none ∧ percent? (-128) 1 = some (-32768) := by
  decide
/-- R91: `create 0x203` as P2 writes it. -/
theorem test_create : (Pseudo.create 0x203).expand =
    [.write 32 0x08 0x00000203, .write 32 0x0C 0x00000000, .write 32 0x00 0x13000010] := by decide

/-! ### Witnesses: each obligation's hypotheses met together -/

theorem witness_DecodeOfEncode : (Instr.fget 7 15).WellFormed ∧ (Instr.fset 0 0).WellFormed ∧ (Instr.absorb 15).WellFormed := by
  decide

theorem witness_EncodeOfDecode : decode 0x1000007F = .ok (.fget 7 15) := by decide

theorem witness_IllegalWords : (∃ e, decode 0x04000000 = .error e) ∧ (∃ e, decode 0x00000080 = .error e) ∧
    (∃ e, decode 0x40000001 = .error e) ∧ (∃ e, decode 0x20000010 = .error e) ∧ ∃ e, decode 0x1200000F = .error e :=
  ⟨⟨_, rfl⟩, ⟨_, rfl⟩, ⟨_, rfl⟩, ⟨_, rfl⟩, ⟨_, rfl⟩⟩

theorem witness_StepRuns : hostMoves (hostWith (.write 32 0x00 0x43000000) State.reset) [] (.write 32 0x00 0x43000000) [] ∧
    decode 0x43000000 = .ok .send := ⟨⟨rfl, rfl⟩, by decide⟩

theorem witness_StepOfAnIllegalWord :
    hostMoves (hostWith (.write 32 0x00 0x00000001) State.reset) [] (.write 32 0x00 0x00000001) [] ∧
    decode 0x00000001 = .error .unusedField := ⟨⟨rfl, rfl⟩, by decide⟩

theorem witness_FailingCommands : ∃ t, exec .send busy = .next t ∧ failing t.block.err := by
  obtain ⟨t, e, h⟩ := gives_exists (show gives (exec .send busy) (fun t => decide (t.block.err = .txBusy)) = true by decide)
  exact ⟨t, e, by rw [of_decide_eq_true h]; decide, by rw [of_decide_eq_true h]; decide⟩

/-- The same failure through a whole issue step. -/
theorem witness_FailingSteps : hostMoves (hostWith (.write 32 0x00 0x43000000) busy) [] (.write 32 0x00 0x43000000) [] ∧
    gives (step (hostWith (.write 32 0x00 0x43000000) busy)) (fun t => decide (t.block.err = .txBusy)) = true :=
  ⟨⟨rfl, rfl⟩, by decide⟩

/-- Words with NOP's opcode and another bit set: the lowest and the highest bit below the opcode. -/
theorem witness_NopOthers : (0x00000001 : Word).toNat / 2 ^ 24 = 0x00 ∧ (0x00000001 : Word) ≠ 0 ∧
    (0x00800000 : Word).toNat / 2 ^ 24 = 0x00 ∧ (0x00800000 : Word) ≠ 0 := by decide

/-- The same failed command serves the reissue: any command and any operands follow it. -/
theorem witness_Reissue : ∃ t, exec .send busy = .next t ∧ failing t.block.err ∧ t.block.arg = #v[0, 0, 0, 0, 0] := by
  obtain ⟨t, e, h⟩ := gives_exists (show gives (exec .send busy)
    (fun t => decide (t.block.err = .txBusy ∧ t.block.arg = #v[0, 0, 0, 0, 0])) = true by decide)
  have h := of_decide_eq_true h
  exact ⟨t, e, ⟨by rw [h.1]; decide, by rw [h.1]; decide⟩, h.2⟩

theorem witness_LegalHost : (hostWith (.read 32 0x34) State.reset).hostLegal ∧ (hostWith (.poll 0x04 0x20 0) busy).hostLegal := by
  decide

/-- ENC's image from the values of its operands. -/
theorem encImage_of {s : State} (v0 v1 v2 v3 v4 : Int) (h : arg s 0 = v0 ∧ arg s 1 = v1 ∧ arg s 2 = v2 ∧ arg s 3 = v3 ∧ arg s 4 = v4) :
    encImage s = affineImage (v0 : ℚ) v1 v2 v3 v4 := by
  obtain ⟨rfl, rfl, rfl, rfl, rfl⟩ := h
  rfl

/-- An image inside the codomain. -/
theorem witness_EncWrites : arg (withArgs 6 (-20) 20 (-16384) 16384) 2 ≠ arg (withArgs 6 (-20) 20 (-16384) 16384) 1 ∧
    ((-16384 : Int) : ℚ) ≤ encImage (withArgs 6 (-20) 20 (-16384) 16384) ∧
    encImage (withArgs 6 (-20) 20 (-16384) 16384) ≤ ((16384 : Int) : ℚ) := by
  rw [encImage_of 6 (-20) 20 (-16384) 16384 (by decide)]
  exact ⟨by decide, by norm_num [affineImage], by norm_num [affineImage]⟩

/-- An image at the end of the codomain. -/
theorem witness_EncWrites_end : encImage (withArgs 20 (-20) 20 (-16384) 16384) = ((16384 : Int) : ℚ) := by
  rw [encImage_of 20 (-20) 20 (-16384) 16384 (by decide)]
  norm_num [affineImage]

/-- One image below the codomain and one above it. -/
theorem witness_EncRejects : (withArgs (-1) 0 3 0 10).params.ovfPolicy = .error ∧
    arg (withArgs (-1) 0 3 0 10) 2 ≠ arg (withArgs (-1) 0 3 0 10) 1 ∧ encImage (withArgs (-1) 0 3 0 10) < ((0 : Int) : ℚ) ∧
    arg (withArgs 150 0 100 0 1000) 2 ≠ arg (withArgs 150 0 100 0 1000) 1 ∧
    ((1000 : Int) : ℚ) < encImage (withArgs 150 0 100 0 1000) := by
  rw [encImage_of (-1) 0 3 0 10 (by decide), encImage_of 150 0 100 0 1000 (by decide)]
  exact ⟨rfl, by decide, by norm_num [affineImage], by decide, by norm_num [affineImage]⟩

theorem witness_EncSaturates : ∃ s : State, s.params.ovfPolicy = .clamp ∧ arg s 2 ≠ arg s 1 :=
  ⟨withPolicy .trunc .clamp (withArgs 150 0 100 0 1000), rfl, by decide⟩

/-- At the start of the domain and at its end. -/
theorem witness_EncEndpoints :
    (∃ s : State, arg s 2 ≠ arg s 1 ∧ arg s 0 = arg s 1) ∧ ∃ s : State, arg s 2 ≠ arg s 1 ∧ arg s 0 = arg s 2 :=
  ⟨⟨withArgs (-20) (-20) 20 (-16384) 16384, by decide, by decide⟩, ⟨withArgs 20 (-20) 20 (-16384) 16384, by decide, by decide⟩⟩

/-- A pair of ENCs that both complete, with the sign of the directions `d` (1 same, -1 opposite, 0 a constant codomain). -/
def encPair (s : State) (v w : Code) (d : Int) : Bool :=
  decide (arg s 2 ≠ arg s 1 ∧ v.toInt ≤ w.toInt ∧ ((arg s 2 - arg s 1) * (arg s 4 - arg s 3)).sign = d) &&
    gives (exec .enc { s with block := { s.block with arg := s.block.arg.set 0 v } }) (fun t => decide (t.block.err = .ok)) &&
    gives (exec .enc { s with block := { s.block with arg := s.block.arg.set 0 w } }) (fun u => decide (u.block.err = .ok))

theorem witness_EncIsMonotone : encPair (withArgs 0 (-20) 20 (-16384) 16384) 5 6 1 = true ∧
    encPair (withArgs 0 0 100 1000 0) 5 6 (-1) = true ∧ encPair (withArgs 0 0 10 5 5) 6 7 0 = true := by decide

theorem witness_ZeroWidth : arg (withArgs 5 5 5 0 10) 2 = arg (withArgs 5 5 5 0 10) 1 ∧
    arg (withArgs 0 0 7680 0 0) 0 = 0 ∧ arg (withArgs 0 0 7680 0 0) 1 = 0 := by decide

/-- Both ends of `int8`, and one past each. -/
theorem witness_Join :
    (-128 ≤ arg (withArgs (-128) 127 0 0 0) 0 ∧ arg (withArgs (-128) 127 0 0 0) 0 ≤ 127 ∧
      -128 ≤ arg (withArgs (-128) 127 0 0 0) 1 ∧ arg (withArgs (-128) 127 0 0 0) 1 ≤ 127) ∧
    ¬(arg (withArgs 128 0 0 0 0) 0 ≤ 127) ∧ ¬(-128 ≤ arg (withArgs 0 (-129) 0 0 0) 1) := by decide

theorem witness_SplitAndJoin : gives (exec .split (withArgs (-4915) 0 0 0 0)) (fun _ => true) = true ∧
    gives (exec .join (withArgs 19 51 0 0 0)) (fun t => decide (t.block.err = .ok)) = true := by decide

theorem witness_Fset : (1 : Fin 7).val ≤ 1 ∧ -128 ≤ arg (withArgs (-128) 0 0 0 0) 0 ∧ arg (withArgs (-128) 0 0 0 0) 0 ≤ 127 := by
  decide

/-- The last accepted and first rejected values of sel, idx and the byte. -/
theorem witness_FrameFieldErrors : errs (.fget 7 0) State.reset .illegalCommand = true ∧
    errs (.fget 6 8) State.reset .indexOutOfBounds = true ∧ errs (.fset 2 0) State.reset .illegalCommand = true ∧
    errs (.fset 1 8) State.reset .indexOutOfBounds = true ∧ errs (.fset 1 7) (withArgs 128 0 0 0 0) .rangeOverflow = true ∧
    errs (.fid 7) State.reset .illegalCommand = true ∧ errs (.fnew 2) State.reset .illegalCommand = true := by decide

/-- OFFS at both ends of the addresses. -/
theorem witness_Offs : results (.offs 1) State.reset 0 1 0 = true ∧ results (.offs 4) State.reset 6 7 0 = true := by decide

/-- Addresses 0 and 5 are outside; every command of the list is tried. -/
theorem witness_Addresses : ∀ a ∈ [0, 5, 15], ¬(1 ≤ a ∧ a ≤ 4) ∧
    ∀ i ∈ [Instr.offs a, .absorb a, .tang a, .trpm a, .tcur a, .ttmp a],
      errs i State.reset .indexOutOfBounds = true := by decide

/-- Full scale, both ways. -/
theorem witness_PercentWithin : |percent State.reset.params (arg (withArgs 25600 0 0 0 0) 0)| ≤ 100 ∧
    |percent State.reset.params (arg (withArgs (-25600) 0 0 0 0) 0)| ≤ 100 := by
  rw [show arg (withArgs 25600 0 0 0 0) 0 = 25600 by decide, show arg (withArgs (-25600) 0 0 0 0) 0 = -25600 by decide]
  norm_num [percent, State.reset, Config.params]

/-- One step beyond full scale, both ways, under either policy. -/
theorem witness_PercentBeyond : 100 < |percent State.reset.params (arg (withArgs 25601 0 0 0 0) 0)| ∧
    100 < |percent State.reset.params (arg (withArgs (-25601) 0 0 0 0) 0)| ∧
    (withArgs 25601 0 0 0 0).params.ovfPolicy = .error ∧
    (withPolicy .trunc .clamp (withArgs 25601 0 0 0 0)).params.ovfPolicy = .clamp := by
  rw [show arg (withArgs 25601 0 0 0 0) 0 = 25601 by decide, show arg (withArgs (-25601) 0 0 0 0) 0 = -25601 by decide]
  refine ⟨?_, ?_, rfl, rfl⟩ <;> norm_num [percent, State.reset, Config.params]

theorem witness_ClosedForm : (withArgs 25600 0 0 0 0).params.pctFrac = 8 ∧ |arg (withArgs 25600 0 0 0 0) 0| ≤ 25600 ∧
    |arg (withArgs (-25600) 0 0 0 0) 0| ≤ 25600 := by decide

/-- A frame with channel 1's identifier, and one with no channel's. -/
theorem witness_Identifiers : (withRxf ⟨0x201, #v[0, 0, 0, 0, 0, 0, 0, 0]⟩).block.rxf.id = telemetryId State.reset.params 0 ∧
    (withRxf ⟨0x204, #v[0, 0, 0, 0, 0, 0, 0, 0]⟩).block.rxf.id = telemetryId State.reset.params 3 ∧
    ∀ c : Fin 4, (withRxf ⟨0x205, #v[0, 0, 0, 0, 0, 0, 0, 0]⟩).block.rxf.id ≠ telemetryId State.reset.params c := by decide

theorem witness_ReadsBeforeTelemetry : State.reset.Inv ∧ State.reset.block.tlmv[(3 : Fin 4)] = false := by decide

/-- A zero speed keeps every wheel's image at 0, for any direction. -/
theorem witness_ShiftComputes : ¬(arg (withArgs 3 4 0 0 0) 0 = 0 ∧ arg (withArgs 3 4 0 0 0) 1 = 0) ∧
    ∀ c : Fin 4, |wheelImage (withArgs 3 4 0 0 0) c| ≤ 16384 := by
  refine ⟨by decide, fun c => ?_⟩
  have zero : arg (withArgs 3 4 0 0 0) 2 = 0 := by decide
  fin_cases c <;> norm_num [wheelImage, wheelPercent, zero, speedImage, affineImage]

/-- Along (1, 0) front-left turns at `cos(-pi/4)` of the speed. At 32767 % (a machine with `PCT_FRAC` = 0) that is more
than 100 %. -/
theorem witness_ShiftRejects :
    ∃ s : State, s.params.ovfPolicy = .error ∧ ¬(arg s 0 = 0 ∧ arg s 1 = 0) ∧ ∃ c : Fin 4, 16384 < |wheelImage s c| := by
  let s : State := { withArgs 1 0 32767 0 0 with params := { Config.params with pctFrac := 0 } }
  have x : arg s 0 = 1 := by decide
  have y : arg s 1 = 0 := by decide
  have speed : arg s 2 = 32767 := by decide
  have frac : s.params.pctFrac = 0 := rfl
  refine ⟨s, rfl, by decide, 0, lt_of_lt_of_le ?_ (le_abs_self _)⟩
  have half : (1 : ℝ) / 2 ≤ √2 / 2 := by
    have := Real.one_le_sqrt.2 (by norm_num : (1 : ℝ) ≤ 2)
    linarith
  simp only [wheelImage, wheelPercent, driveAngle, speedImage, affineImage, x, y, speed, frac]
  norm_num [Real.cos_pi_div_four]
  linarith

theorem witness_ShiftSaturates : ∃ s : State, s.params.ovfPolicy = .clamp ∧ ¬(arg s 0 = 0 ∧ arg s 1 = 0) :=
  ⟨withPolicy .trunc .clamp (withArgs 1 1 32767 0 0), rfl, by decide⟩

theorem witness_ShiftNegates : (withArgs 3 4 12800 0 0).params.encRound = .trunc ∧
    gives (exec .shift (withArgs 3 4 12800 0 0)) (fun t => decide (t.block.err = .ok)) = true := by decide

/-- (50, 50) is fifty times (1, 1). -/
theorem witness_ShiftDirection :
    (0 : Int) < 50 ∧ (withArgs 50 50 7680 0 0).block.arg[0].toInt = 50 * arg (withArgs 1 1 7680 0 0) 0 ∧
    (withArgs 50 50 7680 0 0).block.arg[1].toInt = 50 * arg (withArgs 1 1 7680 0 0) 1 ∧
    (withArgs 50 50 7680 0 0).block.arg[2] = (withArgs 1 1 7680 0 0).block.arg[2] ∧
    speeds .shift (withArgs 1 1 7680 0 0) 4915 0 (-4915) 0 = true ∧
    speeds .shift (withArgs 50 50 7680 0 0) 4915 0 (-4915) 0 = true := by decide

/-- Field values at their ends, for the clauses that say which word a command has. -/
theorem witness_Words : decode (BitVec.ofNat 32 (0x13000000 + 16 * 7)) = .ok (.fnew 7) ∧
    decode (BitVec.ofNat 32 (0x20000000 + 15)) = .ok (.offs 15) ∧ decode (BitVec.ofNat 32 (0x22000000 + 0)) = .ok (.absorb 0) ∧
    decode (BitVec.ofNat 32 (0x33000000 + 15)) = .ok (.ttmp 15) := by decide

theorem witness_Send : State.reset.block.txpend = false ∧ busy.block.txpend = true := by decide

theorem witness_TxAcceptance : (turnOf .tx busy).env.schedule = [.tx] ∧ (turnOf .tx busy).block.txpend = true ∧
    (turnOf .tx State.reset).env.schedule = [.tx] ∧ (turnOf .tx State.reset).block.txpend = false := by decide

/-- A matching delivery and one that matches no channel. -/
theorem witness_RxDelivery : (rxWith ⟨0x202, [0x7F, 0x80]⟩ State.reset).env.schedule = [.rx] ∧
    (rxWith ⟨0x202, [0x7F, 0x80]⟩ State.reset).env.rx = [⟨0x202, [0x7F, 0x80]⟩] ∧
    (0x202 : Word) = telemetryId State.reset.params 1 ∧ ∀ c : Fin 4, (0x300 : Word) ≠ telemetryId State.reset.params c := by
  decide

theorem witness_Reset : (turnOf .resetInput busy).env.schedule = [.resetInput] ∧
    (turnOf .resetInput busy).params = State.reset.params := by decide

/-- The first and the last register of the map. -/
theorem witness_HostReads : (0x00, (0 : Word)) ∈ registerMap (hostWith (.read 32 0x00) State.reset) ∧
    hostMoves (hostWith (.read 32 0x00) State.reset) [] (.read 32 0x00) [] ∧
    (0x34, (0x200 : Word)) ∈ registerMap (hostWith (.read 32 0x34) State.reset) ∧
    hostMoves (hostWith (.read 32 0x34) State.reset) [] (.read 32 0x34) [] := by
  refine ⟨by decide, ⟨rfl, rfl⟩, by decide, ⟨rfl, rfl⟩⟩

/-- A half-width access, and the unmapped offsets next to the mapped ones. -/
theorem witness_OtherHostAccesses : (16 : Nat) ≠ 32 ∧
    (∀ offset ∈ [0x01, 0x02, 0x1C, 0x2C, 0x38, 0x40], hostReg? offset = none ∧
      offset ∉ (registerMap State.reset).map Prod.fst) ∧
    hostMoves (hostWith (.read 32 0x1C) State.reset) [] (.read 32 0x1C) [] ∧
    hostMoves (hostWith (.write 16 0x00 0) State.reset) [] (.write 16 0x00 0) [] ∧
    hostMoves (hostWith (.poll 0x1C 0 0) State.reset) [] (.poll 0x1C 0 0) [] := by
  refine ⟨by decide, by decide, ⟨rfl, rfl⟩, ⟨rfl, rfl⟩, ⟨rfl, rfl⟩⟩

theorem witness_ArgWrites :
    hostMoves (hostWith (.write 32 0x18 0x00008000) State.reset) [] (.write 32 (0x08 + 4 * (4 : Fin 5).val) 0x00008000) [] :=
  ⟨rfl, rfl⟩

theorem witness_ReadOnlyAndStatus : hostMoves (hostWith (.write 32 0x34 5) State.reset) [] (.write 32 0x34 5) [] ∧
    hostMoves (hostWith (.write 32 0x04 0x10) State.reset) [] (.write 32 0x04 0x10) [] ∧
    (0x10 : Word).toNat / 16 % 2 = 1 ∧ (0xFFFFFFEF : Word).toNat / 16 % 2 = 0 := by
  refine ⟨⟨rfl, rfl⟩, ⟨rfl, rfl⟩, by decide, by decide⟩

/-- A poll of TXPEND with the latch free, and with it busy. -/
theorem witness_Poll : (0x04, (0 : Word)) ∈ registerMap (hostWith (.poll 0x04 0x20 0) State.reset) ∧
    hostMoves (hostWith (.poll 0x04 0x20 0) State.reset) [] (.poll 0x04 0x20 0) [] ∧ (0 : Word) &&& 0x20 = 0 ∧
    (0x04, (0x20 : Word)) ∈ registerMap (hostWith (.poll 0x04 0x20 0) busy) ∧
    hostMoves (hostWith (.poll 0x04 0x20 0) busy) [] (.poll 0x04 0x20 0) [] ∧ (0x20 : Word) &&& 0x20 ≠ 0 := by
  refine ⟨by decide, ⟨rfl, rfl⟩, by decide, by decide, ⟨rfl, rfl⟩, by decide⟩

theorem witness_EveryStep : (hostWith (.write 32 0x00 0x43000000) State.reset).Inv ∧
    gives (step (hostWith (.write 32 0x00 0x43000000) State.reset)) (fun t => t.block.txpend) = true := by decide

/-- A command of each kind of effect completes. -/
theorem witness_CommandsWriteOnly :
    ∀ i ∈ [Instr.nop, .enc, .shift, .send, .fset 0 0, .fset 1 0, .fnew 1, .fdbk, .absorb 1],
      gives (exec i State.reset) (fun _ => true) = true := by decide

/-- An issue step, a command at each count of result registers, and a failing one. -/
theorem witness_ResultCounts :
    hostMoves (hostWith (.write 32 0x00 0x43000000) State.reset) [] (.write 32 0x00 0x43000000) [] ∧
    gives (step (hostWith (.write 32 0x00 0x43000000) State.reset)) (fun t => decide (t.block.cmd = 0x43000000)) = true ∧
    (∀ i ∈ [Instr.nop, .enc, .split, .encspd], gives (exec i (withArgs 7680 0 25600 0 16384)) (fun t =>
      decide (∀ k : Fin 3, resultCount i ≤ k.val → t.block.res[k] = 0)) = true) ∧
    gives (exec .send busy) (fun t => decide (t.block.err = .txBusy ∧ t.block.res = busy.block.res)) = true := by
  refine ⟨⟨rfl, rfl⟩, by decide, by decide, by decide⟩

/-- A step that clears IDMM, not the reset's; TLMV is set in another. -/
theorem witness_StickyFlags :
    (hostWith (.write 32 0x04 0x10) (State.reset.setBlock (State.reset.block.setIdmm true))).env.schedule.head? ≠ some .resetInput ∧
    gives (step (hostWith (.write 32 0x04 0x10) (State.reset.setBlock (State.reset.block.setIdmm true))))
      (fun t => decide (t.block.idmm = false)) = true ∧
    gives (step (hostWith (.write 32 0x00 0) telemetry3)) (fun t => decide (t.block.tlmv[2] = true)) = true := by decide

theorem witness_FrameInFlight : busy.block.txpend = true ∧
    (hostWith (.write 32 0x00 0x43000000) busy).env.schedule.head? ≠ some .resetInput ∧
    gives (step (hostWith (.write 32 0x00 0x43000000) busy)) (fun t => t.block.txpend) = true ∧
    gives (step (turnOf .tx busy)) (fun t => decide (t.env.sent = [busy.block.txl])) = true := by decide

theorem witness_AtMostOneChannel :
    (rxWith ⟨0x202, [0x7F, 0x80]⟩ State.reset).env.schedule.head? ≠ some .resetInput ∧
    gives (step (rxWith ⟨0x202, [0x7F, 0x80]⟩ State.reset)) (fun t => decide (t.block.tlf[1] = t.block.rxf)) = true := by decide

/-- Two states that differ in feedback state only, and two that differ in command state only. -/
theorem witness_Interference :
    let s₁ := hostWith (.write 32 0x00 0x43000000) State.reset
    let s₂ := hostWith (.write 32 0x00 0x43000000) telemetry3
    let s₃ := hostWith (.write 32 0x00 0x44000000) State.reset
    let s₄ := hostWith (.write 32 0x00 0x44000000) (withSpd 1 2 3 4)
    s₁.params = s₂.params ∧ s₁.env = s₂.env ∧ s₁.block.arg = s₂.block.arg ∧ commandState s₁.block = commandState s₂.block ∧
    feedbackState s₁.block ≠ feedbackState s₂.block ∧
    gives (step s₁) (fun _ => true) = true ∧ gives (step s₂) (fun _ => true) = true ∧
    s₃.params = s₄.params ∧ s₃.env = s₄.env ∧ s₃.block.arg = s₄.block.arg ∧ feedbackState s₃.block = feedbackState s₄.block ∧
    commandState s₃.block ≠ commandState s₄.block ∧
    gives (step s₃) (fun _ => true) = true ∧ gives (step s₄) (fun _ => true) = true := by decide

theorem witness_OnlyCommandsWriteErr : (turnOf .tx busy).env.schedule.head? ≠ some .resetInput ∧
    gives (step (turnOf .tx busy)) (fun _ => true) = true ∧
    ∀ (rest : List Agent) (hs : List HostStep) (w : Word), ¬hostMoves (turnOf .tx busy) rest (.write 32 0x00 w) hs := by
  refine ⟨by decide, by decide, fun rest hs w h => ?_⟩
  have : (.tx : Agent) = .host := (List.cons.inj h.1).1
  exact absurd this (by decide)

end Sys2Proof.Tests
end

namespace Sys2Proof.Machine

/-! PROOFS. The invariant of the block, kept by each kind of update, then by commands, deliveries and steps (00_scope R6,
10_state R30 to R38). -/

variable {p : Params} {b b' : Block}

/-- The invariant reads only the identifier of TXF, and TXL, TLF, SPD and TLMV. -/
theorem Block.Inv.of_eq (inv : b.Inv p) (txf : b'.txf.id = b.txf.id) (txl : b'.txl = b.txl) (tlf : b'.tlf = b.tlf)
    (spd : b'.spd = b.spd) (tlmv : b'.tlmv = b.tlmv) : b'.Inv p := by
  simpa only [Block.Inv, txf, txl, tlf, spd, tlmv] using inv

@[simp] theorem frameCode_zero (id : Word) (c : Fin 4) : frameCode (Frame.zero id) c = 0 := by
  have zeroByte : ∀ i : Fin 8, (Frame.zero id).b[i] = 0 := fun i => by fin_cases i <;> rfl
  rw [frameCode, zeroByte, zeroByte]
  decide

theorem outgoingOk_zero (p : Params) : outgoingOk p (Frame.zero p.txId) :=
  ⟨rfl, fun c => by rw [frameCode_zero]; decide⟩

/-- The block after reset meets the invariant, whatever the parameters (R271). -/
theorem Block.Inv.reset (p : Params) : (Block.reset p).Inv p := by
  have zeroFilled : ∀ c : Fin 4, (Block.reset p).tlf[c] = Frame.zero (tidOf p c) := fun c => by fin_cases c <;> rfl
  refine ⟨rfl, outgoingOk_zero p, fun c => ?_, fun c => ?_, fun c _ => zeroFilled c⟩
  · rw [zeroFilled]; rfl
  · have : (Block.reset p).spd[c] = 0 := by fin_cases c <;> rfl
    rw [this]; decide

/-- A channel that takes a frame with its own identifier keeps the invariant: it is valid from then on (R30, R145). -/
theorem Block.Inv.taken (inv : b.Inv p) {c : Fin 4} {f : Frame} (own : f.id = tidOf p c) :
    ((b.setTlf c f).setTlmv c true).Inv p := by
  obtain ⟨txf, txl, ids, speeds, zeroFilled⟩ := inv
  refine ⟨txf, txl, fun d => ?_, speeds, fun d invalid => ?_⟩
  · by_cases same : c = d
    · subst same; simpa using own
    · simpa [Fin.val_ne_of_ne same] using ids d
  · by_cases same : c = d
    · subst same; simp at invalid
    · have before : b.tlmv[d] = false := by simpa [Fin.val_ne_of_ne same] using invalid
      simpa [Fin.val_ne_of_ne same] using zeroFilled d before

/-- Speed codes that are each in range or unchanged keep the invariant (R32). -/
theorem Block.Inv.driven (inv : b.Inv p) {v : Vector Code 4} (codes : ∀ c : Fin 4, speedOk v[c] ∨ v[c] = b.spd[c]) :
    ({ b with spd := v } : Block).Inv p := by
  obtain ⟨txf, txl, ids, speeds, zeroFilled⟩ := inv
  refine ⟨txf, txl, ids, fun c => ?_, zeroFilled⟩
  rcases codes c with inRange | same
  · exact inRange
  · exact same ▸ speeds c

/-- The frame SEND assembles carries the speed codes, so it is fit to be latched (R187, R188). -/
theorem Block.Inv.latched (inv : b.Inv p) :
    ((b.setTxfBytes (assemble b)).setTxl ⟨p.txId, assemble b⟩).Inv p := by
  obtain ⟨txf, -, ids, speeds, zeroFilled⟩ := inv
  exact ⟨txf, ⟨rfl, fun c => by simpa only [Block.setTxl_txl, frameCode_assemble] using speeds c⟩, ids, speeds, zeroFilled⟩

/-- Every command keeps the invariant. -/
theorem Effect.keeps_inv (effect : Effect p b b') (inv : b.Inv p) : b'.Inv p := by
  cases effect with
  | failed e => exact inv.of_eq rfl rfl rfl rfl rfl
  | results r => exact inv.of_eq rfl rfl rfl rfl rfl
  | byteWritten st i v => exact inv.of_eq (by simp) (by simp) (by simp) (by simp) (by simp)
  | created id => exact inv.of_eq rfl rfl rfl rfl rfl
  | absorbed c v own => exact (inv.taken own).of_eq rfl rfl rfl rfl rfl
  | mismatched v unmatched => exact inv.of_eq rfl rfl rfl rfl rfl
  | driven v codes => exact (inv.driven codes).of_eq rfl rfl rfl rfl rfl
  | latched idle => exact inv.latched.of_eq rfl rfl rfl rfl rfl

/-- A delivery keeps the invariant, whether a channel takes the frame or none does (R189, R225). -/
theorem Block.Inv.after_deliver (inv : b.Inv p) (d : Delivery) : (deliver p d b).Inv p := by
  have stored : (b.setRxf (rxFrame d)).Inv p := inv.of_eq rfl rfl rfl rfl rfl
  unfold deliver
  rcases dispatch_cases p (rxFrame d) (b.setRxf (rxFrame d)) with ⟨c, own, taken⟩ | ⟨-, missed⟩
  · rw [taken]; exact stored.taken own
  · rw [missed]; exact stored.of_eq rfl rfl rfl rfl rfl

theorem Block.Inv.after_writeStatus (inv : b.Inv p) (w : Word) : (writeStatus b w).Inv p := by
  unfold writeStatus
  split
  · exact inv.of_eq rfl rfl rfl rfl rfl
  · exact inv

/-- No step writes a parameter (R6). -/
theorem StepEffect.params_eq {s t : State} (effect : StepEffect s t) : t.params = s.params := by
  cases effect <;> assumption

/-- The sent record grows only by the latched frame, taken by the transport (R222, R228). -/
theorem StepEffect.sent_cases {s t : State} (effect : StepEffect s t) :
    t.env.sent = s.env.sent ∨ t.env.sent = s.env.sent ++ [s.block.txl] := by
  cases effect with
  | accepted _ _ _ _ sent => exact .inr sent
  | _ => exact .inl ‹_›

/-- Every step of every agent keeps the block's invariant. -/
theorem StepEffect.keeps_block_inv {s t : State} (effect : StepEffect s t) (inv : s.block.Inv s.params) :
    t.block.Inv s.params := by
  cases effect with
  | quiet _ block _ => exact block ▸ inv
  | accepted _ _ _ block _ => exact block ▸ inv.of_eq rfl rfl rfl rfl rfl
  | delivered _ d _ _ block _ => exact block ▸ inv.after_deliver d
  | reset _ _ block _ => exact block ▸ .reset s.params
  | statusWritten w _ _ block _ => exact block ▸ inv.after_writeStatus w
  | argWritten i v _ _ block _ => exact block ▸ inv.of_eq rfl rfl rfl rfl rfl
  | illegal w _ _ block _ => exact block ▸ inv.of_eq rfl rfl rfl rfl rfl
  | command w i _ _ _ body _ => exact body.keeps_inv (inv.of_eq rfl rfl rfl rfl rfl)

/-- Every step of every agent keeps the machine's invariant. -/
theorem StepEffect.keeps_inv {s t : State} (effect : StepEffect s t) (inv : s.Inv) : t.Inv := by
  obtain ⟨block, sent⟩ := inv
  rw [State.Inv, effect.params_eq]
  refine ⟨effect.keeps_block_inv block, fun f mem => ?_⟩
  rcases effect.sent_cases with same | grown
  · exact sent f (same ▸ mem)
  · rw [grown, List.mem_append, List.mem_singleton] at mem
    rcases mem with old | rfl
    · exact sent f old
    · obtain ⟨-, latched, -⟩ := block
      exact latched

/-- The turn of reset leaves the block at its reset values and the parameters as they were (R270 to R272). -/
theorem step_resetInput {s : State} {rest : List Agent} (turn : s.env.schedule = .resetInput :: rest) :
    step s = .next ((s.setEnv s.env.popSchedule).setBlock (Block.reset s.params)) := by
  rw [step, nextStep, turn]
  rfl

end Sys2Proof.Machine

namespace Sys2Proof.Claims

open Sys2Proof.Machine

/-- Settles O53: by what each step can do to the block, and what it appends to the sent record. -/
theorem everyStepKeepsTheInvariant : Obligations.EveryStepKeepsTheInvariant :=
  fun _ _ inv next => ⟨(step_cases next).keeps_inv inv, (step_cases next).params_eq⟩

/-- Settles O45: the reset turn computes the block from the parameters alone. -/
theorem resetStateIsWhatResetLeaves : Obligations.ResetStateIsWhatResetLeaves :=
  ⟨rfl, fun _ _ params turn => ⟨_, step_resetInput turn, congrArg Block.reset params⟩⟩

end Sys2Proof.Claims

namespace Sys2Proof.Machine

/-! PROOFS. Frame stores by their frame-select value, and what the frame commands and the telemetry reads answer
(10_state R34, 41_frame R120 to R123, 43_telemetry R160 to R165). -/

open Sys2Proof.Claims

/-- The frame store of a frame-select value 0 to 6 (R34). -/
def storeOf : Fin 7 → Store
  | 0 => .txf
  | 1 => .rxf
  | 2 => .tlf 0
  | 3 => .tlf 1
  | 4 => .tlf 2
  | 5 => .tlf 3
  | 6 => .txl

@[simp] theorem store?_eq_storeOf (sel : Fin 7) : store? sel = some (storeOf sel) := by
  fin_cases sel <;> rfl

theorem storeFrame_eq_frame (b : Block) (sel : Fin 7) : storeFrame b sel = b.frame (storeOf sel) := by
  fin_cases sel <;> rfl

theorem storeOf_injective : Function.Injective storeOf := by decide

/-- The frame store whose bytes FSET writes (R34, R120). -/
def ByteStore.store : ByteStore → Store
  | .txf => .txf
  | .rxf => .rxf

theorem byteStore?_eq_some {sel : Fin 7} (writable : sel.val ≤ 1) :
    ∃ st, byteStore? sel = some st ∧ st.store = storeOf sel := by
  have ends : sel = 0 ∨ sel = 1 := by omega
  rcases ends with rfl | rfl
  · exact ⟨.txf, rfl, rfl⟩
  · exact ⟨.rxf, rfl, rfl⟩

/-- The byte written is the one at the store and index named; every other byte stays (R62). -/
theorem memRead_memWrite (b : Block) (st : ByteStore) (i j : Fin 8) (v : Byte) (st' : Store) :
    memRead (memWrite b st i v) st' j = if st' = st.store ∧ i = j then v else memRead b st' j := by
  cases st
  · exact memRead_memWrite_txf b i j v st'
  · exact memRead_memWrite_rxf b i j v st'

@[simp] theorem frame_id_memWrite (b : Block) (st : ByteStore) (i : Fin 8) (v : Byte) (st' : Store) :
    ((memWrite b st i v).frame st').id = (b.frame st').id := by
  cases st <;> cases st' <;> rfl

/-- A byte write and its commit replace TXF, RXF and ERR at most (R122). -/
theorem memWrite_setErr_eq (b : Block) (st : ByteStore) (i : Fin 8) (v : Byte) (e : ErrCode) :
    (memWrite b st i v).setErr e =
      { b with txf := (memWrite b st i v).txf, rxf := (memWrite b st i v).rxf, err := e } := by
  cases st <;> rfl

/-- A byte in a 16-bit register keeps its signed value (R121). -/
@[simp] theorem codeOfByte_toInt (v : Byte) : (codeOfByte v).toInt = v.toInt :=
  BitVec.toInt_signExtend_of_le (by decide)

/-- An operand in `int8` is the byte of the same signed value (R122). -/
theorem argByte?_eq_some {b : Block} {i : Fin 5} (int8 : isInt8 (argInt b i)) :
    ∃ v : Byte, argByte? b i = some v ∧ v.toInt = argInt b i := by
  refine ⟨BitVec.ofInt 8 (argInt b i), if_pos int8, ?_⟩
  obtain ⟨lower, upper⟩ := int8
  rw [BitVec.toInt_ofInt]
  exact Int.bmod_eq_of_le (by omega) (by omega)

/-- A concatenation is the high part shifted past the low part, as numbers. -/
theorem toNat_append_eq_add {m n : Nat} (x : BitVec m) (y : BitVec n) : (x ++ y).toNat = x.toNat * 2 ^ n + y.toNat := by
  rw [BitVec.toNat_append, ← Nat.shiftLeft_add_eq_or_of_lt y.isLt, Nat.shiftLeft_eq]

/-- An identifier is its two halves (R123). -/
theorem toNat_eq_halves (id : Word) : id.toNat = (idHigh id).toNat * 65536 + (idLow id).toNat := by
  simp only [idHigh, idLow, BitVec.extractLsb'_toNat, Nat.shiftRight_eq_div_pow]
  omega

/-- FGET of a store and a byte that exist completes (R121). -/
theorem exec_fget_named (s : State) (sel : Fin 7) (i : Fin 8) :
    exec (.fget sel i) s = resultsOnly s (s.block.res.set 0 (codeOfByte (memRead s.block (storeOf sel) i))) := by
  simp only [exec, execFget, store?_eq_storeOf, byteIndex?_lt i.isLt]
  rfl

/-- FID of a store that exists completes (R123). -/
theorem exec_fid_named (s : State) (sel : Fin 7) :
    exec (.fid sel) s = resultsOnly s ((s.block.res.set 0 (idLow (storeFrame s.block sel).id)).set 1
      (idHigh (storeFrame s.block sel).id)) := by
  simp only [exec, execFid, store?_eq_storeOf, storeFrame_eq_frame]
  rfl

/-- FSET of a byte that may be written, with a value in `int8`, completes (R122). -/
theorem exec_fset_named {s : State} {sel : Nat} {st : ByteStore} {v : Byte} (i : Fin 8) (named : byteStore? sel = some st)
    (value : argByte? s.block 0 = some v) :
    exec (.fset sel i) s = .next (s.setBlock ((memWrite s.block st i v).setErr .ok)) := by
  simp only [exec, execFset, named, byteIndex?_lt i.isLt, value]
  rfl

/-- A telemetry read of a channel that exists completes with the field and TLMV (R161 to R164). -/
theorem commit_readTelemetry (s : State) (c : Fin 4) (field : Fin 4 → Code) :
    commit s (readTelemetry s.block (c.val + 1) field) =
      resultsOnly s ((s.block.res.set 0 (field c)).set 1 (codeOfFlag s.block.tlmv[c])) := by
  rw [readTelemetry, show channel? (c.val + 1) = some c from channel?_addressOf c]
  rfl

/-- The four telemetry reads of a zero-filled frame whose TLMV is 0 return 0 and 0 (R165). -/
theorem exec_telemetry_zero {s : State} {c : Fin 4} {id : Word} (frame : s.block.tlf[c] = Frame.zero id)
    (invalid : s.block.tlmv[c] = false) :
    ∀ i ∈ [Instr.tang (c.val + 1), .trpm (c.val + 1), .tcur (c.val + 1), .ttmp (c.val + 1)],
      exec i s = resultsOnly s ((s.block.res.set 0 0).set 1 0) := by
  have field16 : ∀ k, memRead16 s.block (.tlf c) k = 0 := fun k => by
    rw [show memRead16 s.block (.tlf c) k = frameCode s.block.tlf[c] k from rfl, frame, frameCode_zero]
  have byte6 : codeOfByte (memRead s.block (.tlf c) 6) = 0 := by
    rw [show memRead s.block (.tlf c) 6 = s.block.tlf[c].b[6] from rfl, frame]
    rfl
  have read : ∀ field : Fin 4 → Code, field c = 0 →
      commit s (readTelemetry s.block (c.val + 1) field) = resultsOnly s ((s.block.res.set 0 0).set 1 0) := by
    intro field zero
    rw [commit_readTelemetry, zero, invalid]
    rfl
  intro i mem
  simp only [List.mem_cons, List.not_mem_nil, or_false] at mem
  rcases mem with rfl | rfl | rfl | rfl
  exacts [read _ (field16 0), read _ (field16 1), read _ (field16 2), read _ byte6]

/-- The number of each code is the pattern ERR shows (60_exceptions R241). -/
@[simp] theorem ErrCode.toNat_code (e : ErrCode) : e.code.toNat = errNumber e := by
  cases e <;> rfl

end Sys2Proof.Machine

namespace Sys2Proof.Claims

open Sys2Proof.Machine

/-- Settles O21: the byte written is read back by `memRead_memWrite`, and the select values name distinct stores. -/
theorem fsetWritesOnlyTheNamedByte : Obligations.FsetWritesOnlyTheNamedByte := by
  intro s sel i writable lower upper
  obtain ⟨st, named, store⟩ := byteStore?_eq_some writable
  obtain ⟨v, value, signed⟩ := argByte?_eq_some (b := s.block) (i := 0) ⟨lower, upper⟩
  have bytes (sel' : Fin 7) (j : Fin 8) : (storeFrame ((memWrite s.block st i v).setErr .ok) sel').b[j] =
      if sel' = sel ∧ i = j then v else (storeFrame s.block sel').b[j] := by
    simp only [storeFrame_eq_frame, ← storeOf_injective.eq_iff (a := sel'), ← store]
    exact memRead_memWrite s.block st i j v (storeOf sel')
  refine ⟨_, exec_fset_named i named value, ?_, fun sel' j other => ?_, fun sel' => ?_, memWrite_setErr_eq ..⟩
  · rw [bytes, if_pos ⟨rfl, rfl⟩]
    exact signed
  · rw [bytes, if_neg fun same => other (Prod.ext same.1 same.2.symm)]
  · simp only [storeFrame_eq_frame]
    exact frame_id_memWrite s.block st i v (storeOf sel')

/-- Settles O23: the two results are the halves of the identifier. -/
theorem fidReadsTheIdentifier : Obligations.FidReadsTheIdentifier :=
  fun s sel => ⟨_, _, toNat_eq_halves _, exec_fid_named s sel⟩

/-- Settles O20: every select value 0 to 6 names its store. -/
theorem fgetReadsTheNamedByte : Obligations.FgetReadsTheNamedByte := by
  intro s sel i
  refine ⟨_, ?_, exec_fget_named s sel i⟩
  rw [codeOfByte_toInt, storeFrame_eq_frame]
  rfl

/-- Settles O34: by the invariant the channel's frame is still zero-filled. -/
theorem readsBeforeTelemetryReturnZero : Obligations.ReadsBeforeTelemetryReturnZero := by
  intro s c inv invalid
  obtain ⟨⟨-, -, -, -, zeroFilled⟩, -⟩ := inv
  exact exec_telemetry_zero (zeroFilled c invalid) invalid

/-- Settles O47: the fields of STATUS are a concatenation of known widths. -/
theorem statusHasTheListedLayout : Obligations.StatusHasTheListedLayout := by
  intro b
  simp only [Block.status, toNat_append_eq_add, BitVec.toNat_ofBool, ErrCode.toNat_code, BitVec.toNat_ofNat]
  omega

end Sys2Proof.Claims

namespace Sys2Proof.Machine

/-! PROOFS. What each kind of update leaves of the flags, the latch, ERR and CMD, and the turn a host write is made in
(10_state R25 to R30, R38, 45_ports R222 to R226). -/

open Sys2Proof.Claims

variable {p : Params} {b b' : Block}

/-- A host write in its turn, as the obligations name it. -/
theorem hostWrites.hostMoves {s : State} {offset : Nat} {w : Word} (turn : hostWrites s offset w) :
    ∃ rest hs, hostMoves s rest (.write 32 offset w) hs := by
  obtain ⟨rest, schedule⟩ := List.head?_eq_some_iff.1 turn.1
  obtain ⟨hs, host⟩ := List.head?_eq_some_iff.1 turn.2
  exact ⟨rest, hs, schedule, host⟩

/-! ### Deliveries (R225, R226) -/

theorem deliver_match {d : Delivery} {c : Fin 4} (b : Block) (own : d.id = tidOf p c) :
    deliver p d b = ((b.setRxf (rxFrame d)).setTlf c (rxFrame d)).setTlmv c true :=
  congrArg Prod.fst (dispatch_match (f := rxFrame d) _ own)

theorem deliver_miss {d : Delivery} (b : Block) (other : ∀ c : Fin 4, d.id ≠ tidOf p c) :
    deliver p d b = (b.setRxf (rxFrame d)).setIdmm true :=
  congrArg Prod.fst (dispatch_miss (f := rxFrame d) _ other)

/-- Everything a delivery can do, said of every block at once: which of the two it does rests on the identifier alone. -/
theorem deliver_cases (p : Params) (d : Delivery) :
    (∃ c : Fin 4, ∀ b, deliver p d b = ((b.setRxf (rxFrame d)).setTlf c (rxFrame d)).setTlmv c true) ∨
    (∀ b, deliver p d b = (b.setRxf (rxFrame d)).setIdmm true) := by
  by_cases own : ∃ c : Fin 4, d.id = tidOf p c
  · obtain ⟨c, own⟩ := own
    exact .inl ⟨c, fun b => deliver_match b own⟩
  · exact .inr fun b => deliver_miss b (not_exists.1 own)

/-- A delivery writes RXF, TLF, TLMV and IDMM at most (R226). -/
theorem deliver_frame (p : Params) (d : Delivery) (b : Block) : deliver p d b =
    { b with rxf := (deliver p d b).rxf, tlf := (deliver p d b).tlf, tlmv := (deliver p d b).tlmv,
             idmm := (deliver p d b).idmm } := by
  rcases deliver_cases p d with ⟨c, taken⟩ | missed
  · rw [taken]; rfl
  · rw [missed]; rfl

@[simp] theorem deliver_cmd (d : Delivery) : (deliver p d b).cmd = b.cmd := by rw [deliver_frame]
@[simp] theorem deliver_err (d : Delivery) : (deliver p d b).err = b.err := by rw [deliver_frame]
@[simp] theorem deliver_txl (d : Delivery) : (deliver p d b).txl = b.txl := by rw [deliver_frame]
@[simp] theorem deliver_txpend (d : Delivery) : (deliver p d b).txpend = b.txpend := by rw [deliver_frame]
@[simp] theorem commandState_deliver (d : Delivery) : commandState (deliver p d b) = commandState b := by
  rw [deliver_frame]; rfl

/-! ### STATUS writes (R58) -/

/-- A STATUS write leaves every element but IDMM, which it clears when bit 4 is 1. -/
theorem writeStatus_eq (b : Block) (w : Word) :
    writeStatus b w = b.setIdmm (if w.getLsbD 4 then false else b.idmm) := by
  unfold writeStatus
  split <;> rfl

/-- Bit 4 of a word, as arithmetic. -/
theorem bit4_iff (w : Word) : w.getLsbD 4 = true ↔ w.toNat / 16 % 2 = 1 := by
  simp [BitVec.getLsbD, Nat.testBit_eq_decide_div_mod_eq]

/-! ### The sticky flags (R28, R30) -/

theorem getElem_set_true {v : Vector Bool 4} {d : Fin 4} (c : Fin 4) (valid : v[c] = true) : (v.set d true)[c] = true := by
  simp only [Fin.getElem_fin, Vector.getElem_set, ite_eq_left_iff]
  exact fun _ => valid

theorem Effect.keeps_tlmv (effect : Effect p b b') {c : Fin 4} (valid : b.tlmv[c] = true) : b'.tlmv[c] = true := by
  cases effect with
  | byteWritten st i v => simpa using valid
  | absorbed d v own => exact getElem_set_true c valid
  | _ => exact valid

theorem Effect.keeps_idmm (effect : Effect p b b') (mismatch : b.idmm = true) : b'.idmm = true := by
  cases effect with
  | byteWritten st i v => simpa using mismatch
  | mismatched v unmatched => rfl
  | _ => exact mismatch

theorem deliver_keeps_tlmv (d : Delivery) {c : Fin 4} (valid : b.tlmv[c] = true) : (deliver p d b).tlmv[c] = true := by
  rcases deliver_cases p d with ⟨e, taken⟩ | missed
  · rw [taken]; exact getElem_set_true c valid
  · rw [missed]; exact valid

theorem deliver_keeps_idmm (d : Delivery) (mismatch : b.idmm = true) : (deliver p d b).idmm = true := by
  rcases deliver_cases p d with ⟨e, taken⟩ | missed
  · rw [taken]; exact mismatch
  · rw [missed]; rfl

/-- No step but reset clears TLMV (R30). -/
theorem StepEffect.keeps_tlmv {s t : State} (effect : StepEffect s t) (noReset : s.env.schedule.head? ≠ some .resetInput)
    {c : Fin 4} (valid : s.block.tlmv[c] = true) : t.block.tlmv[c] = true := by
  cases effect with
  | quiet _ block _ => rw [block]; exact valid
  | accepted _ _ _ block _ => rw [block]; exact valid
  | delivered _ d _ _ block _ => rw [block]; exact deliver_keeps_tlmv d valid
  | reset turn _ _ _ => exact absurd turn noReset
  | statusWritten w _ _ block _ => rw [block, writeStatus_eq]; exact valid
  | argWritten i v _ _ block _ => rw [block]; exact valid
  | illegal w _ _ block _ => rw [block]; exact valid
  | command w i _ _ _ body _ => exact body.keeps_tlmv valid

/-- No step but reset and a STATUS write with bit 4 set clears IDMM (R28). -/
theorem StepEffect.idmm_cleared {s t : State} (effect : StepEffect s t)
    (noReset : s.env.schedule.head? ≠ some .resetInput) (before : s.block.idmm = true) (after : t.block.idmm = false) :
    ∃ w, hostWrites s 0x04 w ∧ w.getLsbD 4 = true := by
  have changed : t.block.idmm ≠ true := by simp [after]
  cases effect with
  | quiet _ block _ => exact absurd (block ▸ before) changed
  | accepted _ _ _ block _ => exact absurd (block ▸ before) changed
  | delivered _ d _ _ block _ => exact absurd (block ▸ deliver_keeps_idmm d before) changed
  | reset turn _ _ _ => exact absurd turn noReset
  | statusWritten w turn _ block _ =>
    refine ⟨w, turn, by_contra fun clear => changed ?_⟩
    rw [block, writeStatus_eq, if_neg clear]
    exact before
  | argWritten i v _ _ block _ => exact absurd (block ▸ before) changed
  | illegal w _ _ block _ => exact absurd (block ▸ before) changed
  | command w i _ _ _ body _ => exact absurd (body.keeps_idmm before) changed

/-! ### The latch (R29, R38) -/

/-- A command leaves the latch alone while a frame is in flight: SEND is refused. -/
theorem Effect.keeps_latch (effect : Effect p b b') (pend : b.txpend = true) : b'.txl = b.txl ∧ b'.txpend = true := by
  cases effect with
  | byteWritten st i v => simpa using pend
  | latched idle => simp [pend] at idle
  | _ => exact ⟨rfl, pend⟩

/-- While a frame is in flight, no step but reset changes TXL, and only an acceptance clears TXPEND (R29, R38). -/
theorem StepEffect.keeps_latch {s t : State} (effect : StepEffect s t)
    (noReset : s.env.schedule.head? ≠ some .resetInput) (pend : s.block.txpend = true) :
    t.block.txl = s.block.txl ∧ (t.block.txpend = true ∨ s.env.schedule.head? = some .tx) := by
  cases effect with
  | quiet _ block _ => rw [block]; exact ⟨rfl, .inl pend⟩
  | accepted turn _ _ block _ => rw [block]; exact ⟨rfl, .inr turn⟩
  | delivered _ d _ _ block _ => rw [block, deliver_txl, deliver_txpend]; exact ⟨rfl, .inl pend⟩
  | reset turn _ _ _ => exact absurd turn noReset
  | statusWritten w _ _ block _ => rw [block, writeStatus_eq]; exact ⟨rfl, .inl pend⟩
  | argWritten i v _ _ block _ => rw [block]; exact ⟨rfl, .inl pend⟩
  | illegal w _ _ block _ => rw [block]; exact ⟨rfl, .inl pend⟩
  | command w i _ _ _ body _ =>
    obtain ⟨txl, txpend⟩ := body.keeps_latch pend
    exact ⟨txl, .inl txpend⟩

/-- The sent record grows only in an acceptance, by TXL, and the acceptance clears TXPEND (R222, R228). -/
theorem StepEffect.sent_grows {s t : State} (effect : StepEffect s t) :
    t.env.sent = s.env.sent ∨ s.env.schedule.head? = some .tx ∧ s.block.txpend = true ∧ t.block.txpend = false ∧
      t.env.sent = s.env.sent ++ [s.block.txl] := by
  cases effect with
  | accepted turn pend _ block sent => exact .inr ⟨turn, pend, by rw [block]; rfl, sent⟩
  | _ => exact .inl ‹_›

/-! ### ERR and CMD (R25, R27) -/

/-- A step that neither resets nor writes CMD leaves ERR and CMD. -/
theorem StepEffect.keeps_err_cmd {s t : State} (effect : StepEffect s t)
    (noReset : s.env.schedule.head? ≠ some .resetInput) (noIssue : ∀ w, ¬hostWrites s 0x00 w) :
    t.block.err = s.block.err ∧ t.block.cmd = s.block.cmd := by
  cases effect with
  | quiet _ block _ => rw [block]; exact ⟨rfl, rfl⟩
  | accepted _ _ _ block _ => rw [block]; exact ⟨rfl, rfl⟩
  | delivered _ d _ _ block _ => rw [block]; exact ⟨deliver_err d, deliver_cmd d⟩
  | reset turn _ _ _ => exact absurd turn noReset
  | statusWritten w _ _ block _ => rw [block, writeStatus_eq]; exact ⟨rfl, rfl⟩
  | argWritten i v _ _ block _ => rw [block]; exact ⟨rfl, rfl⟩
  | illegal w turn _ _ _ => exact absurd turn (noIssue w)
  | command w i turn _ _ _ _ => exact absurd turn (noIssue w)

end Sys2Proof.Machine

namespace Sys2Proof.Claims

open Sys2Proof.Machine

/-- Settles O55: by what each step can do to the two flags. -/
theorem stickyFlagsAreClearedOnlyAsListed : Obligations.StickyFlagsAreClearedOnlyAsListed := by
  intro s t next noReset
  refine ⟨fun c valid => (step_cases next).keeps_tlmv noReset valid, fun before after => ?_⟩
  obtain ⟨w, turn, bit⟩ := (step_cases next).idmm_cleared noReset before after
  obtain ⟨rest, hs, moves⟩ := turn.hostMoves
  exact ⟨rest, hs, w, moves, (bit4_iff w).1 bit⟩

/-- Settles O56: by what each step can do to the latch and to the sent record. -/
theorem frameInFlightIsStable : Obligations.FrameInFlightIsStable :=
  fun _ _ next => ⟨fun pend noReset => (step_cases next).keeps_latch noReset pend, (step_cases next).sent_grows⟩

/-- Settles O59: of the steps `step_cases` lists, only the two issues and reset write ERR or CMD. -/
theorem onlyCommandsAndResetWriteErr : Obligations.OnlyCommandsAndResetWriteErr := by
  intro s t next noReset noIssue
  refine (step_cases next).keeps_err_cmd noReset fun w turn => ?_
  obtain ⟨rest, hs, moves⟩ := turn.hostMoves
  exact noIssue rest hs w moves

end Sys2Proof.Claims

namespace Sys2Proof.Machine

/-! PROOFS. R23's table: which elements the body of each command may write. -/

open Sys2Proof.Claims

variable {i : Instr} {b b' : Block} {r : Result}

/-- The block a command body that ran on `b` leaves (R87, R88, R247). -/
def Result.committed (b : Block) : Result → Block
  | .raise e => b.setErr e
  | .done b' => b'.setErr .ok
  | .diag e b' => b'.setErr e

theorem commit_eq (s : State) (r : Result) : commit s r = .next (s.setBlock (r.committed s.block)) := by
  cases r <;> rfl

/-- What the body of each command may end with on the block `b`: the rows of R23's table. -/
inductive Writes (i : Instr) (b : Block) : Result → Prop where
  /-- any command may fail -/
  | raise (e : ErrCode) : Writes i b (.raise e)
  /-- result registers, up to the command's count -/
  | results (v : Vector Code 3) (h : ∀ k : Fin 3, resultCount i ≤ k.val → v[k] = b.res[k]) :
      Writes i b (.done { b with res := v })
  /-- FSET: bytes of TXF -/
  | txfBytes (idx : Nat) (h : i = .fset 0 idx) (v : Vector Byte 8) : Writes i b (.done (b.setTxfBytes v))
  /-- FSET: bytes of RXF -/
  | rxfBytes (idx : Nat) (h : i = .fset 1 idx) (v : Vector Byte 8) : Writes i b (.done (b.setRxfBytes v))
  /-- FNEW: RXF -/
  | created (h : i = .fnew 1) (f : Frame) : Writes i b (.done (b.setRxf f))
  /-- ABSORB or FDBK with a match: a channel's telemetry, and RES0 -/
  | absorbed (h : i = .fdbk ∨ ∃ a, i = .absorb a) (c : Fin 4) (v : Code) :
      Writes i b (.done (((b.setTlf c b.rxf).setTlmv c true).setRes 0 v))
  /-- FDBK without a match: IDMM and RES0, reported as a mismatch -/
  | mismatched (h : i = .fdbk) (v : Code) : Writes i b (.diag .identifierMismatch ((b.setIdmm true).setRes 0 v))
  /-- SHIFT, TURN, TSTMV: speed codes -/
  | driven (h : i ∈ [Instr.shift, .turn, .tstmv]) (v : Vector Code 4) : Writes i b (.done { b with spd := v })
  /-- SEND: TXF, TXL and TXPEND -/
  | latched (h : i = .send) (v : Vector Byte 8) (f : Frame) :
      Writes i b (.done (((b.setTxfBytes v).setTxl f).setTxpend true))

/-- Writing RES0 alters no other result register. -/
theorem getElem_set_res0 (v : Vector Code 3) (x : Code) {k : Fin 3} (past : 1 ≤ k.val) : (v.set 0 x)[k] = v[k] :=
  Vector.getElem_set_ne _ _ (by omega)

theorem getElem_set_res1 (v : Vector Code 3) (x : Code) {k : Fin 3} (past : 2 ≤ k.val) : (v.set 1 x)[k] = v[k] :=
  Vector.getElem_set_ne _ _ (by omega)

theorem writes_setRes (count : 1 ≤ resultCount i) (v : Code) : Writes i b (.done (b.setRes 0 v)) :=
  .results _ fun _ past => getElem_set_res0 _ _ (count.trans past)

theorem writes_setRes₂ (count : 2 ≤ resultCount i) (v w : Code) : Writes i b (.done ((b.setRes 0 v).setRes 1 w)) :=
  .results _ fun _ past =>
    (getElem_set_res1 _ _ (count.trans past)).trans (getElem_set_res0 _ _ (by omega))

theorem writes_withCode {x : Except ErrCode Int} {go : Int → Result} (body : ∀ c, Writes i b (go c)) :
    Writes i b (withCode x go) := by
  cases x with
  | error e => exact .raise e
  | ok c => exact body c

theorem writes_readTelemetry (count : 2 ≤ resultCount i) (a : Nat) (field : Fin 4 → Code) :
    Writes i b (readTelemetry b a field) := by
  unfold readTelemetry
  split
  · exact .raise _
  · exact writes_setRes₂ count _ _

theorem writes_setSpeeds (drive : i ∈ [Instr.shift, .turn, .tstmv]) (c1 c2 c3 c4 : Int) :
    Writes i b (.done (setSpeeds b c1 c2 c3 c4)) := .driven drive _

/-- The only select values that name a store FSET may write (R120). -/
theorem byteStore?_inv {sel : Nat} {st : ByteStore} (named : byteStore? sel = some st) :
    sel = 0 ∧ st = .txf ∨ sel = 1 ∧ st = .rxf := by
  match sel with
  | 0 => exact .inl ⟨rfl, (Option.some.inj named).symm⟩
  | 1 => exact .inr ⟨rfl, (Option.some.inj named).symm⟩

theorem writes_memWrite {sel : Nat} {st : ByteStore} (idx : Nat) (named : byteStore? sel = some st) (j : Fin 8) (v : Byte) :
    Writes (.fset sel idx) b (.done (memWrite b st j v)) := by
  rcases byteStore?_inv named with ⟨rfl, rfl⟩ | ⟨rfl, rfl⟩
  · exact .txfBytes idx rfl _
  · exact .rxfBytes idx rfl _

theorem execAbsorb_writes (a : Nat) (s : State) : ∃ r, execAbsorb a s = commit s r ∧ Writes (.absorb a) s.block r := by
  refine ⟨_, rfl, ?_⟩
  split
  · exact .raise _
  · next c _ =>
    by_cases own : s.block.rxf.id = tidOf s.params c
    · rw [absorb_match _ own]; exact .absorbed (.inr ⟨a, rfl⟩) c _
    · rw [absorb_miss _ own]; exact writes_setRes le_rfl _

theorem execFdbk_writes (s : State) : ∃ r, execFdbk s = commit s r ∧ Writes .fdbk s.block r := by
  refine ⟨_, rfl, ?_⟩
  rcases dispatch_cases s.params s.block.rxf s.block with ⟨c, -, taken⟩ | ⟨-, missed⟩
  · rw [taken, if_neg (addressOf_ne_zero c)]; exact .absorbed (.inl rfl) c _
  · rw [missed, if_pos rfl]; exact .mismatched rfl _

theorem execFset_writes (sel idx : Nat) (s : State) :
    ∃ r, execFset sel idx s = commit s r ∧ Writes (.fset sel idx) s.block r := by
  refine ⟨_, rfl, ?_⟩
  split
  · exact .raise _
  · next st named =>
    split
    · exact .raise _
    · split
      · exact .raise _
      · exact writes_memWrite idx named _ _

theorem execShift_writes (s : State) : ∃ r, execShift s = commit s r ∧ Writes .shift s.block r := by
  refine ⟨_, rfl, ?_⟩
  split
  · exact .raise _
  · unfold shiftWheels
    split
    · exact writes_setSpeeds (by simp) ..
    · exact .raise _

/-- Every command is a body, committed, that writes its own elements only (R23). -/
theorem exec_writes (i : Instr) (s : State) : ∃ r, exec i s = commit s r ∧ Writes i s.block r := by
  cases i with
  | nop => exact ⟨_, rfl, .results s.block.res fun _ _ => rfl⟩
  | enc =>
    refine ⟨_, rfl, ?_⟩
    split
    · exact .raise _
    · exact writes_withCode fun _ => writes_setRes le_rfl _
  | split => exact ⟨_, rfl, writes_setRes₂ le_rfl _ _⟩
  | join =>
    refine ⟨_, rfl, ?_⟩
    split
    · exact writes_setRes le_rfl _
    · exact .raise _
  | fget sel idx =>
    refine ⟨_, rfl, ?_⟩
    split
    · exact .raise _
    · split
      · exact .raise _
      · exact writes_setRes le_rfl _
  | fset sel idx => exact execFset_writes sel idx s
  | fid sel =>
    refine ⟨_, rfl, ?_⟩
    split
    · exact .raise _
    · exact writes_setRes₂ le_rfl _ _
  | fnew sel =>
    refine ⟨_, rfl, ?_⟩
    split
    · next one => exact .created (congrArg Instr.fnew one) _
    · exact .raise _
  | offs a =>
    refine ⟨_, rfl, ?_⟩
    split
    · exact .raise _
    · exact writes_setRes₂ le_rfl _ _
  | encspd =>
    have allCounted : ∀ k : Fin 3, ¬resultCount .encspd ≤ k.val := by decide
    exact ⟨_, rfl, writes_withCode fun _ => .results _ fun k past => absurd past (allCounted k)⟩
  | absorb a => exact execAbsorb_writes a s
  | tang a => exact ⟨_, rfl, writes_readTelemetry le_rfl a _⟩
  | trpm a => exact ⟨_, rfl, writes_readTelemetry le_rfl a _⟩
  | tcur a => exact ⟨_, rfl, writes_readTelemetry le_rfl a _⟩
  | ttmp a => exact ⟨_, rfl, writes_readTelemetry le_rfl a _⟩
  | shift => exact execShift_writes s
  | turn => exact ⟨_, rfl, writes_withCode fun _ => writes_setSpeeds (by simp) ..⟩
  | tstmv => exact ⟨_, rfl, writes_withCode fun _ => writes_withCode fun _ => .driven (by simp) _⟩
  | send =>
    refine ⟨_, rfl, ?_⟩
    split
    · exact .raise _
    · exact .latched rfl _ _
  | fdbk => exact execFdbk_writes s

/-- Inversion: the block a command leaves is its body's, committed, and the body writes its own elements only. -/
theorem exec_inv {s t : State} (next : exec i s = .next t) :
    ∃ r, t = s.setBlock (r.committed s.block) ∧ Writes i s.block r := by
  obtain ⟨r, body, writes⟩ := exec_writes i s
  rw [body, commit_eq] at next
  exact ⟨r, (Host.Outcome.next.inj next).symm, writes⟩

/-! ### What each row of the table leaves -/

theorem Writes.keeps_cmd_arg (writes : Writes i b r) : (r.committed b).cmd = b.cmd ∧ (r.committed b).arg = b.arg := by
  cases writes <;> exact ⟨rfl, rfl⟩

theorem Writes.keeps_res_past_count (writes : Writes i b r) (k : Fin 3) (past : resultCount i ≤ k.val) :
    (r.committed b).res[k] = b.res[k] := by
  cases writes with
  | results v kept => exact kept k past
  | absorbed matching c v =>
    rcases matching with rfl | ⟨a, rfl⟩
    · exact getElem_set_res0 _ _ past
    · exact getElem_set_res0 _ _ past
  | mismatched fdbk v => subst fdbk; exact getElem_set_res0 _ _ past
  | _ => rfl

/-- A command that fails writes no result register (R244). -/
theorem Writes.failing_keeps_res (writes : Writes i b r) (fails : failing (r.committed b).err) :
    (r.committed b).res = b.res := by
  cases writes with
  | raise e => rfl
  | mismatched _ v => exact absurd rfl fails.2
  | _ => exact absurd rfl fails.1

theorem Writes.keeps_spd (writes : Writes i b r) (other : i ∉ [Instr.shift, .turn, .tstmv]) :
    (r.committed b).spd = b.spd := by
  cases writes with
  | driven drive v => exact absurd drive other
  | _ => rfl

theorem Writes.keeps_latch (writes : Writes i b r) (other : i ≠ .send) :
    (r.committed b).txl = b.txl ∧ (r.committed b).txpend = b.txpend := by
  cases writes with
  | latched send v f => exact absurd send other
  | _ => exact ⟨rfl, rfl⟩

theorem Writes.keeps_txf (writes : Writes i b r) (noSend : i ≠ .send) (noFset : ∀ idx, i ≠ .fset 0 idx) :
    (r.committed b).txf = b.txf := by
  cases writes with
  | txfBytes idx fset v => exact absurd fset (noFset idx)
  | latched send v f => exact absurd send noSend
  | _ => rfl

theorem Writes.keeps_rxf (writes : Writes i b r) (noFset : ∀ idx, i ≠ .fset 1 idx) (noFnew : i ≠ .fnew 1) :
    (r.committed b).rxf = b.rxf := by
  cases writes with
  | rxfBytes idx fset v => exact absurd fset (noFset idx)
  | created fnew f => exact absurd fnew noFnew
  | _ => rfl

theorem Writes.keeps_telemetry (writes : Writes i b r) (noFdbk : i ≠ .fdbk) (noAbsorb : ∀ a, i ≠ .absorb a) :
    (r.committed b).tlf = b.tlf ∧ (r.committed b).tlmv = b.tlmv := by
  cases writes with
  | absorbed matching c v =>
    rcases matching with fdbk | ⟨a, absorb⟩
    · exact absurd fdbk noFdbk
    · exact absurd absorb (noAbsorb a)
  | _ => exact ⟨rfl, rfl⟩

theorem Writes.keeps_idmm (writes : Writes i b r) (noFdbk : i ≠ .fdbk) : (r.committed b).idmm = b.idmm := by
  cases writes with
  | mismatched fdbk v => exact absurd fdbk noFdbk
  | _ => rfl

/-! ### What the agents' surroundings make of a step -/

/-- What the next step does to the block, as far as the surroundings alone decide it (45_ports R220). -/
inductive Move where
  /-- no agent moves, or the host reads -/
  | idle
  /-- the transport's transmit side moves (R222) -/
  | offer
  /-- the transport delivers (R223) -/
  | delivery (d : Delivery)
  /-- the host writes a register (R54 to R58) -/
  | write (r : HostReg) (w : Word)
  /-- reset (R270) -/
  | reset

/-- The move of the host's next step; a write that is an access error makes no step. -/
def hostMove : List HostStep → Move
  | .write width offset w :: _ => ((hostAccess? width offset).map (Move.write · w)).getD .idle
  | _ => .idle

/-- The move the surroundings give next. -/
def Env.move (e : Env) : Move :=
  match e.schedule with
  | [] => .idle
  | .host :: _ => hostMove e.host
  | .tx :: _ => .offer
  | .rx :: _ => (e.rx.head?.map Move.delivery).getD .idle
  | .resetInput :: _ => .reset

/-- The block of `t` comes from the block of `s` by the move. -/
def Move.Does (s t : State) : Move → Prop
  | .idle => t.block = s.block
  | .offer => t.block = s.block.setTxpend false
  | .delivery d => t.block = deliver s.params d s.block
  | .write r w => ∃ u : State, u.params = s.params ∧ u.block = s.block ∧ writeReg r w u = .next t
  | .reset => t.block = Block.reset s.params

theorem txTurn_block {s t : State} (next : txTurn s = .next t) : t.block = s.block.setTxpend false := by
  unfold txTurn txOffer at next
  by_cases pend : s.block.txpend = true
  · rw [if_pos pend] at next
    cases next
    rfl
  · rw [if_neg pend] at next
    cases next
    rw [Block.setTxpend, ← Bool.eq_false_of_not_eq_true pend]

/-- A delivery in the receive side's turn, or nothing. -/
theorem rxTurn_does {s t : State} (next : rxTurn s = .next t) :
    ((s.env.rx.head?.map Move.delivery).getD .idle).Does s t := by
  unfold rxTurn at next
  split at next
  · next none => rw [none]; cases next; rfl
  · next d _ pending => rw [pending]; cases next; rfl

/-- A register write in the host's turn; its other steps leave the block alone. -/
theorem hostTurn_does {s t : State} (next : hostTurn s = .next t) : (hostMove s.env.host).Does s t := by
  unfold hostTurn at next
  split at next
  · next none => rw [none]; cases next; rfl
  · next width offset _ read =>
    rw [read]
    split at next
    · cases next
    · cases next; rfl
  · next width offset w _ write =>
    rw [write]
    split at next
    · cases next
    · next r access =>
      rw [hostMove, access]
      exact ⟨s.setEnv s.env.popHost, rfl, rfl, next⟩
  · next offset mask value _ poll =>
    rw [poll]
    split at next
    · cases next
    · split at next <;> (cases next; rfl)

/-- Every step is the move its surroundings give. -/
theorem step_does {s t : State} (next : step s = .next t) : s.env.move.Does s t := by
  unfold step nextStep at next
  unfold Env.move
  split at next
  · next idle => rw [idle]; cases next; rfl
  · next agent rest turn =>
    rw [turn]
    cases agent with
    | host => exact hostTurn_does (s := s.setEnv s.env.popSchedule) next
    | tx => exact txTurn_block (s := s.setEnv s.env.popSchedule) next
    | rx => exact rxTurn_does (s := s.setEnv s.env.popSchedule) next
    | resetInput => cases next; rfl

/-- The issue of a word, legal or not, leaves it in CMD (R86). -/
theorem issue_cmd {w : Word} {s t : State} (next : issue w s = .next t) : t.block.cmd = w := by
  unfold issue at next
  split at next
  · obtain ⟨r, rfl, writes⟩ := exec_inv next
    exact writes.keeps_cmd_arg.1
  · cases next
    rfl

theorem step_write_cmd {s t : State} {rest : List Agent} {hs : List HostStep} {w : Word}
    (moves : hostMoves s rest (.write 32 0x00 w) hs) (next : step s = .next t) : t.block.cmd = w := by
  have move : s.env.move = .write .cmd w := by rw [Env.move, moves.1, moves.2]; rfl
  have does := step_does next
  rw [move] at does
  obtain ⟨u, -, -, written⟩ := does
  exact issue_cmd written

/-! ### Parts of the block that evolve by themselves (R39) -/

/-- A part of the block whose next value rests on its present value, the parameters, the operands and the surroundings
alone, update by update. -/
structure SelfContained {α : Type} (part : Block → α) : Prop where
  setErr : ∀ b e, part (b.setErr e) = part b
  setCmd : ∀ b w, part (b.setCmd w) = part b
  setArg : ∀ b i v, part (b.setArg i v) = part b
  accepted : ∀ {b₁ b₂}, part b₁ = part b₂ → part (b₁.setTxpend false) = part (b₂.setTxpend false)
  delivered : ∀ {p d b₁ b₂}, part b₁ = part b₂ → part (deliver p d b₁) = part (deliver p d b₂)
  statusWritten : ∀ {w b₁ b₂}, part b₁ = part b₂ → part (writeStatus b₁ w) = part (writeStatus b₂ w)
  command : ∀ {i s₁ s₂ t₁ t₂}, s₁.params = s₂.params → s₁.block.arg = s₂.block.arg → part s₁.block = part s₂.block →
    exec i s₁ = .next t₁ → exec i s₂ = .next t₂ → part t₁.block = part t₂.block

section TwoRuns

variable {α : Type} {part : Block → α} {s₁ s₂ t₁ t₂ : State} {r₁ r₂ : Result}

theorem SelfContained.writeReg (self : SelfContained part) {reg : HostReg} {w : Word} (params : s₁.params = s₂.params)
    (arg : s₁.block.arg = s₂.block.arg) (same : part s₁.block = part s₂.block)
    (next₁ : writeReg reg w s₁ = .next t₁) (next₂ : writeReg reg w s₂ = .next t₂) : part t₁.block = part t₂.block := by
  cases reg with
  | cmd =>
    simp only [Machine.writeReg, issue] at next₁ next₂
    have issued : part (s₁.block.setCmd w) = part (s₂.block.setCmd w) := by rw [self.setCmd, self.setCmd, same]
    cases decoded : decode w with
    | ok i =>
      rw [decoded] at next₁ next₂
      exact self.command (s₁ := s₁.setBlock (s₁.block.setCmd w)) (s₂ := s₂.setBlock (s₂.block.setCmd w)) params arg issued
        next₁ next₂
    | error e =>
      rw [decoded] at next₁ next₂
      cases next₁
      cases next₂
      exact (self.setErr _ _).trans (issued.trans (self.setErr _ _).symm)
  | status => cases next₁; cases next₂; exact self.statusWritten same
  | arg i => cases next₁; cases next₂; exact (self.setArg _ _ _).trans (same.trans (self.setArg _ _ _).symm)
  | res i => cases next₁; cases next₂; exact same
  | txid => cases next₁; cases next₂; exact same
  | tlmbase => cases next₁; cases next₂; exact same

/-- Two steps from the same surroundings, parameters and operands keep a self-contained part in agreement. -/
theorem SelfContained.step (self : SelfContained part) (params : s₁.params = s₂.params) (env : s₁.env = s₂.env)
    (arg : s₁.block.arg = s₂.block.arg) (next₁ : step s₁ = .next t₁) (next₂ : step s₂ = .next t₂)
    (same : part s₁.block = part s₂.block) : part t₁.block = part t₂.block := by
  have does₁ := step_does next₁
  have does₂ := step_does next₂
  rw [env] at does₁
  cases move : s₂.env.move with
  | idle =>
    rw [move] at does₁ does₂
    rw [does₁, does₂, same]
  | offer =>
    rw [move] at does₁ does₂
    rw [does₁, does₂, self.accepted same]
  | delivery d =>
    rw [move] at does₁ does₂
    rw [does₁, does₂, params, self.delivered same]
  | write reg w =>
    rw [move] at does₁ does₂
    obtain ⟨u₁, params₁, block₁, written₁⟩ := does₁
    obtain ⟨u₂, params₂, block₂, written₂⟩ := does₂
    exact self.writeReg (by rw [params₁, params₂, params]) (by rw [block₁, block₂, arg]) (by rw [block₁, block₂, same])
      written₁ written₂
  | reset =>
    rw [move] at does₁ does₂
    rw [does₁, does₂, params]

end TwoRuns

end Sys2Proof.Machine

namespace Sys2Proof.Claims

open Sys2Proof.Machine

/-- Settles O54: clause by clause from R23's table, `Writes`. -/
theorem commandsWriteOnlyTheirElements : Obligations.CommandsWriteOnlyTheirElements := by
  refine ⟨fun s t rest hs w moves next => step_write_cmd moves next, fun i s t next => ?_⟩
  obtain ⟨r, rfl, writes⟩ := exec_inv next
  obtain ⟨cmd, arg⟩ := writes.keeps_cmd_arg
  exact ⟨rfl, rfl, cmd, arg, writes.keeps_res_past_count, writes.failing_keeps_res, writes.keeps_spd, writes.keeps_latch,
    writes.keeps_txf, writes.keeps_rxf, writes.keeps_telemetry, writes.keeps_idmm⟩

end Sys2Proof.Claims

namespace Sys2Proof.Machine

/-! PROOFS. Command state and feedback state each evolve by themselves (10_state R39). -/

open Sys2Proof.Claims

variable {p : Params} {i : Instr} {b b₁ b₂ : Block} {r : Result} {s₁ s₂ t₁ t₂ : State}

theorem commandState_eq_iff : commandState b₁ = commandState b₂ ↔
    b₁.spd = b₂.spd ∧ b₁.txf = b₂.txf ∧ b₁.txl = b₂.txl ∧ b₁.txpend = b₂.txpend := by
  simp [commandState]

theorem feedbackState_eq_iff : feedbackState b₁ = feedbackState b₂ ↔
    b₁.rxf = b₂.rxf ∧ b₁.tlf = b₂.tlf ∧ b₁.tlmv = b₂.tlmv ∧ b₁.idmm = b₂.idmm := by
  simp [feedbackState]

/-! ### The operands two runs share -/

theorem argInt_congr (arg : b₁.arg = b₂.arg) (k : Fin 5) : argInt b₁ k = argInt b₂ k := by
  rw [argInt, argInt, arg]

theorem argByte?_congr (arg : b₁.arg = b₂.arg) (k : Fin 5) : argByte? b₁ k = argByte? b₂ k := by
  rw [argByte?, argByte?, argInt_congr arg]

theorem argIdent_congr (arg : b₁.arg = b₂.arg) : argIdent b₁ = argIdent b₂ := by
  rw [argIdent, argIdent, arg]

/-- The assembled bytes rest on the speed codes alone (R187). -/
theorem assemble_congr (spd : b₁.spd = b₂.spd) : assemble b₁ = assemble b₂ := by
  rw [assemble_eq, assemble_eq, spd]

/-- Two bodies that leave a part of the block in agreement do so through their commits. -/
theorem commit_agree {α : Type} {part : Block → α} {r₁ r₂ : Result} (next₁ : commit s₁ r₁ = .next t₁)
    (next₂ : commit s₂ r₂ = .next t₂) (bodies : part (r₁.committed s₁.block) = part (r₂.committed s₂.block)) :
    part t₁.block = part t₂.block := by
  rw [commit_eq] at next₁ next₂
  cases next₁
  cases next₂
  exact bodies

/-- FSET of the same operands writes the same byte in both runs, or fails in both (R122). -/
theorem execFset_agree {α : Type} {part : Block → α} {sel idx : Nat} (setErr : ∀ b e, part (b.setErr e) = part b)
    (arg : s₁.block.arg = s₂.block.arg) (same : part s₁.block = part s₂.block)
    (written : ∀ st j v, part (memWrite s₁.block st j v) = part (memWrite s₂.block st j v))
    (next₁ : execFset sel idx s₁ = .next t₁) (next₂ : execFset sel idx s₂ = .next t₂) : part t₁.block = part t₂.block := by
  have through : ∀ {x y e}, part x = part y → part (x.setErr e) = part (y.setErr e) := fun agree => by
    rw [setErr, setErr, agree]
  refine commit_agree next₁ next₂ ?_
  rw [argByte?_congr arg]
  cases byteStore? sel with
  | none => exact through same
  | some st =>
    cases byteIndex? idx with
    | none => exact through same
    | some j =>
      cases argByte? s₂.block 0 with
      | none => exact through same
      | some v => exact through (written st j v)

/-! ### Command state -/

/-- The commands that do not write command state (R23, R39). -/
theorem Writes.keeps_commandState (writes : Writes i b r) (noDrive : i ∉ [Instr.shift, .turn, .tstmv]) (noSend : i ≠ .send)
    (noFset : ∀ idx, i ≠ .fset 0 idx) : commandState (r.committed b) = commandState b := by
  obtain ⟨txl, txpend⟩ := writes.keeps_latch noSend
  exact commandState_eq_iff.2 ⟨writes.keeps_spd noDrive, writes.keeps_txf noSend noFset, txl, txpend⟩

theorem commandState_setSpd (same : commandState b₁ = commandState b₂) (c : Fin 4) (v : Code) :
    commandState (b₁.setSpd c v) = commandState (b₂.setSpd c v) := by
  obtain ⟨spd, rest⟩ := commandState_eq_iff.1 same
  exact commandState_eq_iff.2 ⟨by simp [spd], rest⟩

theorem commandState_setSpeeds (same : commandState b₁ = commandState b₂) (c1 c2 c3 c4 : Int) :
    commandState (setSpeeds b₁ c1 c2 c3 c4) = commandState (setSpeeds b₂ c1 c2 c3 c4) :=
  commandState_setSpd (commandState_setSpd (commandState_setSpd (commandState_setSpd same _ _) _ _) _ _) _ _

theorem commandState_memWrite (same : commandState b₁ = commandState b₂) (st : ByteStore) (j : Fin 8) (v : Byte) :
    commandState (memWrite b₁ st j v) = commandState (memWrite b₂ st j v) := by
  obtain ⟨spd, txf, latch⟩ := commandState_eq_iff.1 same
  cases st with
  | txf => exact commandState_eq_iff.2 ⟨spd, by simp [memWrite, txf], latch⟩
  | rxf => exact same

/-- SHIFT's outcome rests on the operands: all four codes, or RangeOverflow (R184). -/
theorem shiftWheels_cases (p : Params) (x y S : Int) :
    (∃ c1 c2 c3 c4, ∀ b, shiftWheels p b x y S = .done (setSpeeds b c1 c2 c3 c4)) ∨
    (∀ b, shiftWheels p b x y S = .raise .rangeOverflow) := by
  unfold shiftWheels
  split
  · exact .inl ⟨_, _, _, _, fun _ => rfl⟩
  · exact .inr fun _ => rfl

theorem execShift_commandState (params : s₁.params = s₂.params) (arg : s₁.block.arg = s₂.block.arg)
    (same : commandState s₁.block = commandState s₂.block) (next₁ : execShift s₁ = .next t₁)
    (next₂ : execShift s₂ = .next t₂) : commandState t₁.block = commandState t₂.block := by
  refine commit_agree next₁ next₂ ?_
  simp only [params, argInt_congr arg]
  split
  · exact same
  · rcases shiftWheels_cases s₂.params (argInt s₂.block 0) (argInt s₂.block 1) (argInt s₂.block 2) with
      ⟨c1, c2, c3, c4, codes⟩ | overflow
    · rw [codes, codes]; exact commandState_setSpeeds same c1 c2 c3 c4
    · rw [overflow, overflow]; exact same

theorem execTurn_commandState (params : s₁.params = s₂.params) (arg : s₁.block.arg = s₂.block.arg)
    (same : commandState s₁.block = commandState s₂.block) (next₁ : execTurn s₁ = .next t₁)
    (next₂ : execTurn s₂ = .next t₂) : commandState t₁.block = commandState t₂.block := by
  refine commit_agree next₁ next₂ ?_
  rw [params, argInt_congr arg]
  cases operandCode s₂.params (argInt s₂.block 0) with
  | error e => exact same
  | ok c => exact commandState_setSpeeds same c c c c

theorem execTstmv_commandState (params : s₁.params = s₂.params) (arg : s₁.block.arg = s₂.block.arg)
    (same : commandState s₁.block = commandState s₂.block) (next₁ : execTstmv s₁ = .next t₁)
    (next₂ : execTstmv s₂ = .next t₂) : commandState t₁.block = commandState t₂.block := by
  refine commit_agree next₁ next₂ ?_
  rw [params, argInt_congr arg]
  cases operandCode s₂.params (argInt s₂.block 0) with
  | error e => exact same
  | ok c1 =>
    cases operandCode s₂.params (-argInt s₂.block 0) with
    | error e => exact same
    | ok c3 => exact commandState_setSpd (commandState_setSpd same _ _) _ _

theorem execSend_commandState (params : s₁.params = s₂.params) (same : commandState s₁.block = commandState s₂.block)
    (next₁ : execSend s₁ = .next t₁) (next₂ : execSend s₂ = .next t₂) : commandState t₁.block = commandState t₂.block := by
  obtain ⟨spd, txf, -, txpend⟩ := commandState_eq_iff.1 same
  refine commit_agree next₁ next₂ ?_
  rw [params, txpend, assemble_congr spd]
  split
  · exact same
  · exact commandState_eq_iff.2 ⟨spd, by simp [Result.committed, txf], rfl, rfl⟩

/-- What a command makes of command state rests on command state, parameters and operands. -/
theorem exec_commandState (params : s₁.params = s₂.params) (arg : s₁.block.arg = s₂.block.arg)
    (same : commandState s₁.block = commandState s₂.block) (next₁ : exec i s₁ = .next t₁) (next₂ : exec i s₂ = .next t₂) :
    commandState t₁.block = commandState t₂.block := by
  cases i with
  | fset sel idx => exact execFset_agree (fun _ _ => rfl) arg same (commandState_memWrite same) next₁ next₂
  | shift => exact execShift_commandState params arg same next₁ next₂
  | turn => exact execTurn_commandState params arg same next₁ next₂
  | tstmv => exact execTstmv_commandState params arg same next₁ next₂
  | send => exact execSend_commandState params same next₁ next₂
  | _ =>
    obtain ⟨r₁, rfl, writes₁⟩ := exec_inv next₁
    obtain ⟨r₂, rfl, writes₂⟩ := exec_inv next₂
    have kept₁ := writes₁.keeps_commandState (by simp) (by simp) (by simp)
    have kept₂ := writes₂.keeps_commandState (by simp) (by simp) (by simp)
    exact kept₁.trans (same.trans kept₂.symm)

theorem commandState_selfContained : SelfContained commandState where
  setErr _ _ := rfl
  setCmd _ _ := rfl
  setArg _ _ _ := rfl
  accepted same := by
    obtain ⟨spd, txf, txl, -⟩ := commandState_eq_iff.1 same
    exact commandState_eq_iff.2 ⟨spd, txf, txl, rfl⟩
  delivered same := by rw [commandState_deliver, commandState_deliver, same]
  statusWritten same := by rw [writeStatus_eq, writeStatus_eq]; exact same
  command := exec_commandState

/-! ### Feedback state -/

/-- The commands that do not write feedback state (R23, R39). -/
theorem Writes.keeps_feedbackState (writes : Writes i b r) (noFset : ∀ idx, i ≠ .fset 1 idx) (noFnew : i ≠ .fnew 1)
    (noAbsorb : ∀ a, i ≠ .absorb a) (noFdbk : i ≠ .fdbk) : feedbackState (r.committed b) = feedbackState b := by
  obtain ⟨tlf, tlmv⟩ := writes.keeps_telemetry noFdbk noAbsorb
  exact feedbackState_eq_iff.2 ⟨writes.keeps_rxf noFset noFnew, tlf, tlmv, writes.keeps_idmm noFdbk⟩

theorem feedbackState_memWrite (same : feedbackState b₁ = feedbackState b₂) (st : ByteStore) (j : Fin 8) (v : Byte) :
    feedbackState (memWrite b₁ st j v) = feedbackState (memWrite b₂ st j v) := by
  obtain ⟨rxf, telemetry⟩ := feedbackState_eq_iff.1 same
  cases st with
  | txf => exact same
  | rxf => exact feedbackState_eq_iff.2 ⟨by simp [memWrite, rxf], telemetry⟩

theorem feedbackState_setRxf (same : feedbackState b₁ = feedbackState b₂) (f : Frame) :
    feedbackState (b₁.setRxf f) = feedbackState (b₂.setRxf f) := by
  obtain ⟨-, telemetry⟩ := feedbackState_eq_iff.1 same
  exact feedbackState_eq_iff.2 ⟨rfl, telemetry⟩

theorem feedbackState_taken (same : feedbackState b₁ = feedbackState b₂) (c : Fin 4) (f : Frame) :
    feedbackState ((b₁.setTlf c f).setTlmv c true) = feedbackState ((b₂.setTlf c f).setTlmv c true) := by
  obtain ⟨rxf, tlf, tlmv, idmm⟩ := feedbackState_eq_iff.1 same
  exact feedbackState_eq_iff.2 ⟨rxf, by simp [tlf], by simp [tlmv], idmm⟩

theorem feedbackState_setIdmm (same : feedbackState b₁ = feedbackState b₂) (v : Bool) :
    feedbackState (b₁.setIdmm v) = feedbackState (b₂.setIdmm v) := by
  obtain ⟨rxf, tlf, tlmv, -⟩ := feedbackState_eq_iff.1 same
  exact feedbackState_eq_iff.2 ⟨rxf, tlf, tlmv, rfl⟩

theorem execFnew_feedbackState {sel : Nat} (arg : s₁.block.arg = s₂.block.arg)
    (same : feedbackState s₁.block = feedbackState s₂.block) (next₁ : execFnew sel s₁ = .next t₁)
    (next₂ : execFnew sel s₂ = .next t₂) : feedbackState t₁.block = feedbackState t₂.block := by
  refine commit_agree next₁ next₂ ?_
  rw [argIdent_congr arg]
  split
  · exact feedbackState_setRxf same _
  · exact same

theorem execAbsorb_feedbackState {a : Nat} (params : s₁.params = s₂.params)
    (same : feedbackState s₁.block = feedbackState s₂.block) (next₁ : execAbsorb a s₁ = .next t₁)
    (next₂ : execAbsorb a s₂ = .next t₂) : feedbackState t₁.block = feedbackState t₂.block := by
  obtain ⟨rxf, -⟩ := feedbackState_eq_iff.1 same
  refine commit_agree next₁ next₂ ?_
  rw [params, rxf]
  cases channel? a with
  | none => exact same
  | some c =>
    by_cases own : s₂.block.rxf.id = tidOf s₂.params c
    · simp only [absorb_match _ own]; exact feedbackState_taken same c _
    · simp only [absorb_miss _ own]; exact same

theorem execFdbk_feedbackState (params : s₁.params = s₂.params) (same : feedbackState s₁.block = feedbackState s₂.block)
    (next₁ : execFdbk s₁ = .next t₁) (next₂ : execFdbk s₂ = .next t₂) : feedbackState t₁.block = feedbackState t₂.block := by
  obtain ⟨rxf, -⟩ := feedbackState_eq_iff.1 same
  refine commit_agree next₁ next₂ ?_
  rw [params, rxf]
  by_cases own : ∃ c : Fin 4, s₂.block.rxf.id = tidOf s₂.params c
  · obtain ⟨c, own⟩ := own
    simp only [dispatch_match _ own, addressOf_ne_zero, if_false]
    exact feedbackState_taken same c _
  · simp only [dispatch_miss _ (not_exists.1 own), if_true]
    exact feedbackState_setIdmm same true

/-- What a command makes of feedback state rests on feedback state, parameters and operands. -/
theorem exec_feedbackState (params : s₁.params = s₂.params) (arg : s₁.block.arg = s₂.block.arg)
    (same : feedbackState s₁.block = feedbackState s₂.block) (next₁ : exec i s₁ = .next t₁)
    (next₂ : exec i s₂ = .next t₂) : feedbackState t₁.block = feedbackState t₂.block := by
  cases i with
  | fset sel idx => exact execFset_agree (fun _ _ => rfl) arg same (feedbackState_memWrite same) next₁ next₂
  | fnew sel => exact execFnew_feedbackState arg same next₁ next₂
  | absorb a => exact execAbsorb_feedbackState params same next₁ next₂
  | fdbk => exact execFdbk_feedbackState params same next₁ next₂
  | _ =>
    obtain ⟨r₁, rfl, writes₁⟩ := exec_inv next₁
    obtain ⟨r₂, rfl, writes₂⟩ := exec_inv next₂
    have kept₁ := writes₁.keeps_feedbackState (by simp) (by simp) (by simp) (by simp)
    have kept₂ := writes₂.keeps_feedbackState (by simp) (by simp) (by simp) (by simp)
    exact kept₁.trans (same.trans kept₂.symm)

theorem feedbackState_deliver (same : feedbackState b₁ = feedbackState b₂) (d : Delivery) :
    feedbackState (deliver p d b₁) = feedbackState (deliver p d b₂) := by
  have stored := feedbackState_setRxf same (rxFrame d)
  rcases deliver_cases p d with ⟨c, taken⟩ | missed
  · rw [taken, taken]; exact feedbackState_taken stored c _
  · rw [missed, missed]; exact feedbackState_setIdmm stored true

theorem feedbackState_selfContained : SelfContained feedbackState where
  setErr _ _ := rfl
  setCmd _ _ := rfl
  setArg _ _ _ := rfl
  accepted same := same
  delivered same := feedbackState_deliver same _
  statusWritten same := by
    obtain ⟨-, -, -, idmm⟩ := feedbackState_eq_iff.1 same
    rw [writeStatus_eq, writeStatus_eq, idmm]
    exact feedbackState_setIdmm same _
  command := exec_feedbackState

end Sys2Proof.Machine

namespace Sys2Proof.Claims

open Sys2Proof.Machine

/-- Settles O58: command state and feedback state are each self-contained. -/
theorem feedbackAndCommandStateDoNotInterfere : Obligations.FeedbackAndCommandStateDoNotInterfere :=
  fun _ _ _ _ params env arg next₁ next₂ =>
    ⟨commandState_selfContained.step params env arg next₁ next₂,
     feedbackState_selfContained.step params env arg next₁ next₂⟩

end Sys2Proof.Claims

namespace Sys2Proof.Machine

/-! PROOFS. The register map both ways, the host's turn for each of its steps, and that no turn but a host access error fails
to answer (20_memory R51 to R58, 30_encoding R90, 60_exceptions R240, R255). -/

open Sys2Proof.Claims

variable {s : State} {width offset : Nat} {r : HostReg} {w mask value : Word} {rest : List Agent} {h : HostStep}
  {hs : List HostStep}

/-! ### The register map (R51, R52) -/

theorem hostReg?_eq_some_iff : hostReg? offset = some r ↔ offset = regOffset r := by
  constructor
  · intro mapped
    unfold hostReg? at mapped
    split at mapped <;> cases mapped <;> rfl
  · rintro rfl
    cases r with
    | arg i => fin_cases i <;> rfl
    | res i => fin_cases i <;> rfl
    | _ => rfl

theorem four_dvd_regOffset (r : HostReg) : 4 ∣ regOffset r := by
  cases r <;> simp only [regOffset] <;> omega

/-- An access reaches a register exactly when it is a 32-bit access at that register's offset. -/
theorem hostAccess?_eq_some_iff : hostAccess? width offset = some r ↔ width = 32 ∧ offset = regOffset r := by
  rw [hostAccess?, Option.ite_none_right_eq_some, hostReg?_eq_some_iff]
  constructor
  · rintro ⟨⟨wide, -⟩, here⟩
    exact ⟨wide, here⟩
  · rintro ⟨wide, rfl⟩
    exact ⟨⟨wide, Nat.mod_eq_zero_of_dvd (four_dvd_regOffset r)⟩, rfl⟩

@[simp] theorem hostAccess?_regOffset (r : HostReg) : hostAccess? 32 (regOffset r) = some r :=
  hostAccess?_eq_some_iff.2 ⟨rfl, rfl⟩

/-- The registers in the order of the map. -/
def hostRegs : List HostReg :=
  [.cmd, .status, .arg 0, .arg 1, .arg 2, .arg 3, .arg 4, .res 0, .res 1, .res 2, .txid, .tlmbase]

theorem mem_hostRegs (r : HostReg) : r ∈ hostRegs := by
  cases r with
  | arg i => fin_cases i <;> decide
  | res i => fin_cases i <;> decide
  | _ => decide

theorem zextCode_eq_ofNat (c : Code) : zextCode c = BitVec.ofNat 32 c.toNat :=
  (BitVec.ofNat_toNat 32 c).symm

/-- The obligations' register map lists each register's offset with the word `readReg` gives (R55, R56). -/
theorem registerMap_eq_map (s : State) :
    registerMap s = hostRegs.map fun r => (regOffset r, readReg s.params s.block r) := by
  simp [registerMap, hostRegs, regOffset, readReg, zextCode_eq_ofNat]

theorem mem_registerMap_iff :
    (offset, w) ∈ registerMap s ↔ ∃ r, regOffset r = offset ∧ readReg s.params s.block r = w := by
  simp only [registerMap_eq_map, List.mem_map, mem_hostRegs, true_and, Prod.mk.injEq]

/-- An access of another width, or at an offset the map does not list, reaches no register. -/
theorem hostAccess?_eq_none (other : width ≠ 32 ∨ ∀ x, (offset, x) ∉ registerMap s) : hostAccess? width offset = none := by
  refine Option.eq_none_iff_forall_ne_some.2 fun r access => ?_
  obtain ⟨wide, here⟩ := hostAccess?_eq_some_iff.1 access
  rcases other with narrow | unmapped
  · exact narrow wide
  · exact unmapped _ (mem_registerMap_iff.2 ⟨r, here.symm, rfl⟩)

/-! ### The host's turn, step by step (R52, R90) -/

theorem hostTurn_read (host : s.env.host = .read width offset :: hs) (access : hostAccess? width offset = some r) :
    hostTurn s = .next (s.setEnv (s.env.popHost.record (readReg s.params s.block r))) := by
  simp only [hostTurn, host, access]

theorem hostTurn_write (host : s.env.host = .write width offset w :: hs) (access : hostAccess? width offset = some r) :
    hostTurn s = writeReg r w (s.setEnv s.env.popHost) := by
  simp only [hostTurn, host, access]

theorem hostTurn_poll (host : s.env.host = .poll offset mask value :: hs) (access : hostAccess? 32 offset = some r) :
    hostTurn s =
      if readReg s.params s.block r &&& mask = value then
        .next (s.setEnv (s.env.popHost.record (readReg s.params s.block r)))
      else .next (s.setEnv (s.env.record (readReg s.params s.block r))) := by
  simp only [hostTurn, host, access]

/-- A host step that is not legal faults (R52, R255). -/
theorem hostTurn_illegal (host : s.env.host = h :: hs) (illegal : h.legal = false) :
    hostTurn s = .fault .hostAccessError := by
  cases h <;> simp only [hostTurn, host, Option.isNone_iff_eq_none.1 (Option.isSome_eq_false_iff.1 illegal)]

/-! ### The machine's step when the host moves next -/

theorem step_hostMoves (moves : hostMoves s rest h hs) : step s = hostTurn (s.setEnv s.env.popSchedule) := by
  rw [step, nextStep, moves.1]
  rfl

theorem step_read (moves : hostMoves s rest (.read width offset) hs) (access : hostAccess? width offset = some r) :
    step s = .next { s with
      env := { s.env with schedule := rest, host := hs, reads := s.env.reads ++ [readReg s.params s.block r] } } := by
  rw [step_hostMoves moves, hostTurn_read (s := s.setEnv s.env.popSchedule) moves.2 access]
  simp [State.setEnv, Env.record, Env.popHost, Env.popSchedule, moves.1, moves.2]

theorem step_write (moves : hostMoves s rest (.write width offset w) hs) (access : hostAccess? width offset = some r) :
    step s = writeReg r w { s with env := { s.env with schedule := rest, host := hs } } := by
  rw [step_hostMoves moves, hostTurn_write (s := s.setEnv s.env.popSchedule) moves.2 access]
  simp [State.setEnv, Env.popHost, Env.popSchedule, moves.1, moves.2]

theorem step_illegal (moves : hostMoves s rest h hs) (illegal : h.legal = false) : step s = .fault .hostAccessError :=
  (step_hostMoves moves).trans (hostTurn_illegal (s := s.setEnv _) moves.2 illegal)

/-! ### Register writes (R54, R55, R57) -/

/-- The operand code of a host word: its low half, read as signed (R55). -/
theorem toInt_lowHalf (w : Word) : (w.extractLsb' 0 16).toInt = (w.toNat : Int).bmod 65536 := by
  rw [BitVec.toInt_eq_toNat_bmod, BitVec.extractLsb'_toNat, Nat.shiftRight_zero, Int.natCast_emod]
  exact Int.emod_bmod ..

/-- The offsets of RES, TXID and TLMBASE reach registers whose write changes nothing (R54). -/
theorem readOnly_register (readOnly : offset ∈ [0x20, 0x24, 0x28, 0x30, 0x34]) :
    ∃ r, hostAccess? 32 offset = some r ∧ ∀ w s, writeReg r w s = .next s := by
  simp only [List.mem_cons, List.not_mem_nil, or_false] at readOnly
  rcases readOnly with rfl | rfl | rfl | rfl | rfl
  exacts [⟨.res 0, rfl, fun _ _ => rfl⟩, ⟨.res 1, rfl, fun _ _ => rfl⟩, ⟨.res 2, rfl, fun _ _ => rfl⟩,
    ⟨.txid, rfl, fun _ _ => rfl⟩, ⟨.tlmbase, rfl, fun _ _ => rfl⟩]

/-- The issue of any word, legal or not, answers and leaves the parameters and the surroundings as they were. -/
theorem issue_next (w : Word) (s : State) : ∃ b, issue w s = .next (s.setBlock b) := by
  unfold issue
  split
  · next i _ =>
    obtain ⟨body, committed, -⟩ := exec_writes i (s.setBlock (s.block.setCmd w))
    exact ⟨_, committed.trans (commit_eq _ body)⟩
  · exact ⟨_, rfl⟩

/-- The write of any register answers and leaves the parameters and the surroundings as they were. -/
theorem writeReg_next (r : HostReg) (w : Word) (s : State) : ∃ b, writeReg r w s = .next (s.setBlock b) := by
  cases r with
  | cmd => exact issue_next w s
  | _ => exact ⟨_, rfl⟩

/-! ### Turns that answer (R240, R255) -/

/-- A legal host step answers, and the host's remaining steps are a tail of those it had. -/
theorem hostTurn_next (legal : s.hostLegal) : ∃ t, hostTurn s = .next t ∧ t.env.host <:+ s.env.host := by
  have popped : s.env.popHost.host <:+ s.env.host := List.tail_suffix _
  cases host : s.env.host with
  | nil => exact ⟨s, by rw [hostTurn, host], by rw [host]⟩
  | cons h hs =>
    rw [← host]
    have legal_h : h.legal = true := legal h (host ▸ List.mem_cons_self)
    cases h with
    | read width offset =>
      obtain ⟨r, access⟩ := Option.isSome_iff_exists.1 legal_h
      exact ⟨_, hostTurn_read host access, popped⟩
    | write width offset w =>
      obtain ⟨r, access⟩ := Option.isSome_iff_exists.1 legal_h
      obtain ⟨b, written⟩ := writeReg_next r w (s.setEnv s.env.popHost)
      exact ⟨_, (hostTurn_write host access).trans written, popped⟩
    | poll offset mask value =>
      obtain ⟨r, access⟩ := Option.isSome_iff_exists.1 legal_h
      rw [hostTurn_poll host access]
      split
      · exact ⟨_, rfl, popped⟩
      · exact ⟨_, rfl, List.suffix_rfl⟩

/-- The transport's turns and reset always answer, and leave the host's steps alone (R222, R223, R270). -/
theorem txTurn_next (s : State) : ∃ t, txTurn s = .next t ∧ t.env.host = s.env.host := by
  unfold txTurn
  split <;> exact ⟨_, rfl, rfl⟩

theorem rxTurn_next (s : State) : ∃ t, rxTurn s = .next t ∧ t.env.host = s.env.host := by
  unfold rxTurn
  split <;> exact ⟨_, rfl, rfl⟩

/-- With a legal host every turn answers, and the host's remaining steps are a tail of those it had. -/
theorem agentTurn_next (a : Agent) (legal : s.hostLegal) : ∃ t, agentTurn a s = .next t ∧ t.env.host <:+ s.env.host := by
  cases a with
  | host => exact hostTurn_next legal
  | tx =>
    obtain ⟨t, next, same⟩ := txTurn_next s
    exact ⟨t, next, by rw [same]⟩
  | rx =>
    obtain ⟨t, next, same⟩ := rxTurn_next s
    exact ⟨t, next, by rw [same]⟩
  | resetInput => exact ⟨_, rfl, List.suffix_rfl⟩

theorem step_next (legal : s.hostLegal) : ∃ t, step s = .next t ∧ t.env.host <:+ s.env.host := by
  unfold step nextStep
  split
  · exact ⟨s, rfl, List.suffix_rfl⟩
  · next a _ _ => exact agentTurn_next (s := s.setEnv s.env.popSchedule) a legal

end Sys2Proof.Machine

namespace Sys2Proof.Claims

open Sys2Proof.Machine

/-- Settles O9: a step under a legal host answers, and the steps the host has left are among those it had. -/
theorem legalHostNeverFaults : Obligations.LegalHostNeverFaults := by
  intro s legal
  obtain ⟨t, next, left⟩ := step_next legal
  exact ⟨t, next, fun h pending => legal h (left.subset pending)⟩

/-- Settles O46: the register at a mapped offset is the one the access reaches. -/
theorem hostReadsReturnTheRegister : Obligations.HostReadsReturnTheRegister := by
  intro s rest hs offset w mapped moves
  obtain ⟨r, rfl, rfl⟩ := mem_registerMap_iff.1 mapped
  exact step_read moves (hostAccess?_regOffset r)

/-- Settles O48: such an access reaches no register, so the host's step is not legal. -/
theorem otherHostAccessesFault : Obligations.OtherHostAccessesFault := by
  intro s rest hs width offset w mask value other
  have unreached : (hostAccess? width offset).isSome = false := by rw [hostAccess?_eq_none other]; rfl
  refine ⟨fun moves => step_illegal moves unreached, fun moves => step_illegal moves unreached, ?_⟩
  rintro rfl moves
  exact step_illegal moves unreached

/-- Settles O49: the register takes bits 15:0 of the word. -/
theorem argWritesTakeTheLowHalf : Obligations.ArgWritesTakeTheLowHalf :=
  fun _ _ _ i w moves => ⟨w.extractLsb' 0 16, toInt_lowHalf w, step_write moves (hostAccess?_regOffset (.arg i))⟩

/-- Settles O50: by the register each offset reaches. -/
theorem readOnlyAndStatusWrites : Obligations.ReadOnlyAndStatusWrites := by
  refine fun s rest hs w => ⟨fun offset readOnly moves => ?_, fun moves => ?_⟩
  · obtain ⟨r, access, ignored⟩ := readOnly_register readOnly
    exact ⟨_, (step_write moves access).trans (ignored _ _), rfl, rfl, rfl⟩
  · refine ⟨_, step_write moves (hostAccess?_regOffset .status), rfl, rfl, ?_⟩
    exact (writeStatus_eq s.block w).trans (congrArg s.block.setIdmm (if_congr (bit4_iff w) rfl rfl))

end Sys2Proof.Claims

namespace Sys2Proof

/-! PROOFS. The opcode map both ways: a word selects at most one row, every command's word selects the command's row, and
the rows by class (30_encoding R80 to R86). -/

variable {w code : Word} {sel n : Nat}

/-! ### A word selects at most one row (R83, R86) -/

theorem opcOf_and (w m : Word) : opcOf (w &&& m) = opcOf w &&& opcOf m :=
  BitVec.extractLsb'_and

/-- Every row compares all eight bits of OPC. -/
theorem opcOf_mask : ∀ r ∈ opRows, opcOf r.mask = BitVec.allOnes 8 := by decide

/-- No two rows of the map have one opcode. -/
theorem opcodes_nodup : (opRows.map fun r => opcOf r.code).Nodup := by decide

/-- A word has the opcode of the row it selects. -/
theorem opcOf_of_selects {r : OpRow} (mem : r ∈ opRows) (selects : w &&& r.mask = r.code) : opcOf r.code = opcOf w := by
  rw [← selects, opcOf_and, opcOf_mask r mem, BitVec.and_allOnes]

/-- A word decodes by the one row it selects. -/
theorem decode_of_selects {r : OpRow} (mem : r ∈ opRows) (selects : w &&& r.mask = r.code) :
    decode w = .ok (r.build (selOf w) (nOf w)) := by
  cases decoded : decode w with
  | error e => exact absurd selects ((decode_error_iff w).1 ⟨e, decoded⟩ r mem)
  | ok i =>
    obtain ⟨r', mem', selects', rfl⟩ := decode_ok decoded
    have same : opcOf r'.code = opcOf r.code :=
      (opcOf_of_selects mem' selects').trans (opcOf_of_selects mem selects).symm
    rw [List.inj_on_of_nodup_map opcodes_nodup mem' mem same]

/-! ### Words and their fields as arithmetic (R80, R82) -/

theorem selOf_eq (w : Word) : selOf w = w.toNat / 16 % 8 := by
  rw [selOf, BitVec.extractLsb'_toNat, Nat.shiftRight_eq_div_pow]

theorem nOf_eq (w : Word) : nOf w = w.toNat % 16 := by
  rw [nOf, BitVec.extractLsb'_toNat, Nat.shiftRight_zero]

/-- The parts of a class F word share no bit, so the word is their sum. -/
theorem toNat_wordF (aligned : code.toNat % 128 = 0) (selLt : sel < 8) (nLt : n < 16) :
    (wordF code sel n).toNat = code.toNat + sel * 16 + n := by
  have selBits : (BitVec.ofNat 32 sel <<< 4).toNat = sel * 16 := by
    rw [BitVec.toNat_shiftLeft, BitVec.toNat_ofNat, Nat.shiftLeft_eq]; omega
  have nBits : (BitVec.ofNat 32 n).toNat = n := by rw [BitVec.toNat_ofNat]; omega
  have join₁ := Nat.two_pow_add_eq_or_of_lt (i := 7) (b := sel * 16) (by omega) (code.toNat / 128)
  have join₂ := Nat.two_pow_add_eq_or_of_lt (i := 4) (b := n) (by omega) ((code.toNat + sel * 16) / 16)
  rw [show 2 ^ 7 * (code.toNat / 128) = code.toNat by omega] at join₁
  rw [show 2 ^ 4 * ((code.toNat + sel * 16) / 16) = code.toNat + sel * 16 by omega] at join₂
  rw [wordF, BitVec.toNat_or, BitVec.toNat_or, selBits, nBits, ← join₁, ← join₂]

theorem wordS_eq_wordF (code : Word) (sel : Nat) : wordS code sel = wordF code sel 0 := by
  simp [wordS, wordF]

theorem wordA_eq_wordF (code : Word) (n : Nat) : wordA code n = wordF code 0 n := by
  simp [wordA, wordF]

theorem selOf_wordF (aligned : code.toNat % 128 = 0) (selLt : sel < 8) (nLt : n < 16) :
    selOf (wordF code sel n) = sel := by
  rw [selOf_eq, toNat_wordF aligned selLt nLt]; omega

theorem nOf_wordF (aligned : code.toNat % 128 = 0) (selLt : sel < 8) (nLt : n < 16) : nOf (wordF code sel n) = n := by
  rw [nOf_eq, toNat_wordF aligned selLt nLt]; omega

/-! ### The words of each class select the class's rows and decode to what they build (R81, R83) -/

theorem decode_wordF {build : Nat → Nat → Instr} (mem : ⟨code, maskF, build⟩ ∈ opRows) (aligned : code.toNat % 128 = 0)
    (fits : selFits sel ∧ nFits n) : decode (wordF code sel n) = .ok (build sel n) := by
  have selects : wordF code sel n &&& maskF = code := by
    rw [selectsF_iff, toNat_wordF aligned fits.1 fits.2]; omega
  rw [decode_of_selects mem selects, selOf_wordF aligned fits.1 fits.2, nOf_wordF aligned fits.1 fits.2]

theorem decode_wordS {build : Nat → Instr} (mem : ⟨code, maskS, fun sel _ => build sel⟩ ∈ opRows)
    (aligned : code.toNat % 128 = 0) (fits : selFits sel) : decode (wordS code sel) = .ok (build sel) := by
  rw [wordS_eq_wordF]
  have selects : wordF code sel 0 &&& maskS = code := by
    rw [selectsS_iff, toNat_wordF aligned fits (by decide)]; omega
  rw [decode_of_selects mem selects, selOf_wordF aligned fits (by decide)]

theorem decode_wordA {build : Nat → Instr} (mem : ⟨code, maskA, fun _ n => build n⟩ ∈ opRows)
    (aligned : code.toNat % 128 = 0) (fits : nFits n) : decode (wordA code n) = .ok (build n) := by
  rw [wordA_eq_wordF]
  have selects : wordF code 0 n &&& maskA = code := by
    rw [selectsA_iff, toNat_wordF aligned (by decide) fits]; omega
  rw [decode_of_selects mem selects, nOf_wordF aligned (by decide) fits]

/-- Every command's word decodes to the command, by the command's row. -/
theorem decode_encode {i : Instr} (wf : i.WellFormed) : decode (encode i) = .ok i := by
  cases i with
  | fget sel idx => exact decode_wordF (List.mem_of_getElem? (i := 4) rfl) rfl (of_decide_eq_true wf)
  | fset sel idx => exact decode_wordF (List.mem_of_getElem? (i := 5) rfl) rfl (of_decide_eq_true wf)
  | fid sel => exact decode_wordS (List.mem_of_getElem? (i := 6) rfl) rfl (of_decide_eq_true wf)
  | fnew sel => exact decode_wordS (List.mem_of_getElem? (i := 7) rfl) rfl (of_decide_eq_true wf)
  | offs a => exact decode_wordA (List.mem_of_getElem? (i := 8) rfl) rfl (of_decide_eq_true wf)
  | absorb a => exact decode_wordA (List.mem_of_getElem? (i := 10) rfl) rfl (of_decide_eq_true wf)
  | tang a => exact decode_wordA (List.mem_of_getElem? (i := 11) rfl) rfl (of_decide_eq_true wf)
  | trpm a => exact decode_wordA (List.mem_of_getElem? (i := 12) rfl) rfl (of_decide_eq_true wf)
  | tcur a => exact decode_wordA (List.mem_of_getElem? (i := 13) rfl) rfl (of_decide_eq_true wf)
  | ttmp a => exact decode_wordA (List.mem_of_getElem? (i := 14) rfl) rfl (of_decide_eq_true wf)
  | _ => rfl

/-! ### Each row builds the command whose word selects it (R81 to R85) -/

/-- A word that selects the row is the word of the well-formed command the row builds from its fields. -/
def OpRow.Sound (r : OpRow) : Prop :=
  ∀ w : Word, w &&& r.mask = r.code →
    (r.build (selOf w) (nOf w)).WellFormed ∧ encode (r.build (selOf w) (nOf w)) = w

theorem sound_classZ {i : Instr} (wf : i.WellFormed) (word : encode i = code) : OpRow.Sound ⟨code, maskZ, fun _ _ => i⟩ :=
  fun w selects => ⟨wf, word.trans (selects.symm.trans (word_eq_maskZ w).symm)⟩

theorem sound_classA {build : Nat → Instr} (wf : ∀ n < 16, (build n).WellFormed) (word : ∀ n, encode (build n) = wordA code n) :
    OpRow.Sound ⟨code, maskA, fun _ n => build n⟩ := by
  refine fun w selects => ⟨wf _ (nOf_lt w), (word _).trans ?_⟩
  rw [← show w &&& maskA = code from selects]
  exact (word_eq_maskA w).symm

theorem sound_classS {build : Nat → Instr} (wf : ∀ sel < 8, (build sel).WellFormed)
    (word : ∀ sel, encode (build sel) = wordS code sel) : OpRow.Sound ⟨code, maskS, fun sel _ => build sel⟩ := by
  refine fun w selects => ⟨wf _ (selOf_lt w), (word _).trans ?_⟩
  rw [← show w &&& maskS = code from selects]
  exact (word_eq_maskS w).symm

theorem sound_classF {build : Nat → Nat → Instr} (wf : ∀ sel < 8, ∀ n < 16, (build sel n).WellFormed)
    (word : ∀ sel n, encode (build sel n) = wordF code sel n) : OpRow.Sound ⟨code, maskF, build⟩ := by
  refine fun w selects => ⟨wf _ (selOf_lt w) _ (nOf_lt w), (word _ _).trans ?_⟩
  rw [← show w &&& maskF = code from selects]
  exact (word_eq_maskF w).symm

theorem opRowsLow_sound : ∀ r ∈ opRowsLow, r.Sound := by
  simp only [opRowsLow, List.forall_mem_cons, List.not_mem_nil, false_imp_iff, implies_true, and_true]
  exact ⟨sound_classZ rfl rfl, sound_classZ rfl rfl, sound_classZ rfl rfl, sound_classZ rfl rfl,
    sound_classF (by decide) fun _ _ => rfl, sound_classF (by decide) fun _ _ => rfl,
    sound_classS (by decide) fun _ => rfl, sound_classS (by decide) fun _ => rfl⟩

theorem opRowsHigh_sound : ∀ r ∈ opRowsHigh, r.Sound := by
  simp only [opRowsHigh, List.forall_mem_cons, List.not_mem_nil, false_imp_iff, implies_true, and_true]
  exact ⟨sound_classA (by decide) fun _ => rfl, sound_classZ rfl rfl, sound_classA (by decide) fun _ => rfl,
    sound_classA (by decide) fun _ => rfl, sound_classA (by decide) fun _ => rfl, sound_classA (by decide) fun _ => rfl,
    sound_classA (by decide) fun _ => rfl, sound_classZ rfl rfl, sound_classZ rfl rfl, sound_classZ rfl rfl,
    sound_classZ rfl rfl, sound_classZ rfl rfl⟩

theorem opRows_sound : ∀ r ∈ opRows, r.Sound :=
  List.forall_mem_append.2 ⟨opRowsLow_sound, opRowsHigh_sound⟩

/-- A word that decodes is the word of its command, and the command is well-formed. -/
theorem encode_of_decode {i : Instr} (decoded : decode w = .ok i) : i.WellFormed ∧ encode i = w := by
  obtain ⟨r, mem, selects, rfl⟩ := decode_ok decoded
  exact opRows_sound r mem w selects

/-! ### The illegal words by class (R81, R84) -/

section Classes

open Sys2Proof.Claims

/-- The code of the rows with opcode `o`: every field below OPC is 0 (R80, R83). -/
def opcodeWord (o : Nat) : Word := BitVec.ofNat 32 (o * 2 ^ 24)

theorem toNat_opcodeWord {o : Nat} (byte : o < 256) : (opcodeWord o).toNat = o * 2 ^ 24 := by
  rw [opcodeWord, BitVec.toNat_ofNat]; omega

/-- The masks and codes of the rows, class by class as R81 lists the opcodes. -/
def classRows : List (Word × Word) :=
  opcodesZ.map (fun o => (maskZ, opcodeWord o)) ++ opcodesA.map (fun o => (maskA, opcodeWord o)) ++
    opcodesF.map (fun o => (maskF, opcodeWord o)) ++ opcodesS.map (fun o => (maskS, opcodeWord o))

theorem opRows_perm_classRows : (opRows.map fun r => (r.mask, r.code)).Perm classRows := by decide

/-- A word selects no row of a class exactly when it lacks the class's opcodes or sets a bit the class does not use. -/
theorem selects_none_iff {mask : Word} {opcodes : List Nat} {unusedClear : Prop} (bytes : ∀ o ∈ opcodes, o < 256)
    (selects : ∀ o < 256, (w &&& mask = opcodeWord o ↔ w.toNat / 2 ^ 24 = o ∧ unusedClear)) :
    (∀ o ∈ opcodes, w &&& mask ≠ opcodeWord o) ↔ ¬(w.toNat / 2 ^ 24 ∈ opcodes ∧ unusedClear) := by
  constructor
  · rintro none ⟨listed, clear⟩
    exact none _ listed ((selects _ (bytes _ listed)).2 ⟨rfl, clear⟩)
  · rintro unlisted o listed selected
    obtain ⟨rfl, clear⟩ := (selects o (bytes o listed)).1 selected
    exact unlisted ⟨listed, clear⟩

theorem decode_error_iff_classes (w : Word) : (∃ e, decode w = .error e) ↔
    ¬(w.toNat / 2 ^ 24 ∈ opcodesZ ∧ w.toNat / 2 ^ 7 % 2 ^ 17 = 0 ∧ w.toNat % 2 ^ 7 = 0) ∧
    ¬(w.toNat / 2 ^ 24 ∈ opcodesA ∧ w.toNat / 2 ^ 7 % 2 ^ 17 = 0 ∧ w.toNat / 2 ^ 4 % 2 ^ 3 = 0) ∧
    ¬(w.toNat / 2 ^ 24 ∈ opcodesF ∧ w.toNat / 2 ^ 7 % 2 ^ 17 = 0) ∧
    ¬(w.toNat / 2 ^ 24 ∈ opcodesS ∧ w.toNat / 2 ^ 7 % 2 ^ 17 = 0 ∧ w.toNat % 2 ^ 4 = 0) := by
  have byClass : (∀ r ∈ opRows, w &&& r.mask ≠ r.code) ↔ ∀ p ∈ classRows, w &&& p.1 ≠ p.2 := by
    simp only [← opRows_perm_classRows.mem_iff, List.forall_mem_map]
  rw [decode_error_iff, byClass]
  simp only [classRows, List.forall_mem_append, List.forall_mem_map, and_assoc]
  refine and_congr (selects_none_iff (by decide) fun o byte => ?_)
    (and_congr (selects_none_iff (by decide) fun o byte => ?_)
      (and_congr (selects_none_iff (by decide) fun o byte => ?_) (selects_none_iff (by decide) fun o byte => ?_)))
  · rw [selectsZ_iff, toNat_opcodeWord byte]; omega
  · rw [selectsA_iff, toNat_opcodeWord byte]; omega
  · rw [selectsF_iff, toNat_opcodeWord byte]; omega
  · rw [selectsS_iff, toNat_opcodeWord byte]; omega

/-- No opcode is in two classes. -/
theorem classes_disjoint (o : Nat) : (o ∈ opcodesZ → o ∉ opcodesA ∧ o ∉ opcodesF ∧ o ∉ opcodesS) ∧
    (o ∈ opcodesA → o ∉ opcodesF ∧ o ∉ opcodesS) ∧ (o ∈ opcodesF → o ∉ opcodesS) := by
  have disjointZ : ∀ o ∈ opcodesZ, o ∉ opcodesA ∧ o ∉ opcodesF ∧ o ∉ opcodesS := by decide
  have disjointA : ∀ o ∈ opcodesA, o ∉ opcodesF ∧ o ∉ opcodesS := by decide
  have disjointF : ∀ o ∈ opcodesF, o ∉ opcodesS := by decide
  exact ⟨disjointZ o, disjointA o, disjointF o⟩

end Classes

end Sys2Proof

namespace Sys2Proof.Machine

/-! PROOFS. The issue of a command word and the host's poll, and what a command that fails leaves (30_encoding R86, R87, R90,
60_exceptions R244). -/

open Sys2Proof.Claims

variable {s t : State} {w mask value : Word} {rest : List Agent} {hs : List HostStep}

/-! ### Issue (R57, R84, R86) -/

theorem issue_of_decode {i : Instr} (legal : decode w = .ok i) (s : State) :
    issue w s = exec i (s.setBlock (s.block.setCmd w)) := by
  rw [issue, legal]

theorem issue_of_illegal {e : DecodeError} (illegal : decode w = .error e) (s : State) :
    issue w s = .next (s.setBlock ((s.block.setCmd w).setErr .illegalCommand)) := by
  rw [issue, illegal]
  rfl

/-- The host's write of a word to CMD is the issue of the word, the host's step and turn consumed. -/
theorem step_issue (moves : hostMoves s rest (.write 32 0x00 w) hs) :
    step s = issue w { s with env := { s.env with schedule := rest, host := hs } } :=
  step_write moves (hostAccess?_regOffset .cmd)

/-- The state `withFetchWord` gives is one in which the host writes the word to CMD next. -/
theorem hostMoves_withFetchWord (s : State) (w : Word) :
    hostMoves (s.withFetchWord 32 w.toNat) s.env.schedule (.write 32 0x00 w) s.env.host := by
  rw [State.withFetchWord, Nat.mod_eq_of_lt w.isLt, BitVec.ofNat_toNat, BitVec.setWidth_eq]
  exact ⟨rfl, rfl⟩

/-! ### Failing commands (R87, R244) -/

/-- A body that ends with a failing code has raised it: only ERR changes. -/
theorem Writes.failing_eq_setErr {i : Instr} {b : Block} {r : Result} (writes : Writes i b r)
    (fails : failing (r.committed b).err) : r.committed b = b.setErr (r.committed b).err := by
  cases writes with
  | raise e => rfl
  | mismatched _ v => exact absurd rfl fails.2
  | _ => exact absurd rfl fails.1

theorem exec_failing {i : Instr} (next : exec i s = .next t) (fails : failing t.block.err) :
    t = s.setBlock (s.block.setErr t.block.err) := by
  obtain ⟨r, rfl, writes⟩ := exec_inv next
  exact congrArg s.setBlock (writes.failing_eq_setErr fails)

/-- An issue that ends with a failing code, the word legal or not, changes CMD and ERR alone. -/
theorem issue_failing (next : issue w s = .next t) (fails : failing t.block.err) :
    t = s.setBlock ((s.block.setCmd w).setErr t.block.err) := by
  cases decoded : decode w with
  | ok i =>
    rw [issue_of_decode decoded] at next
    exact exec_failing next fails
  | error e =>
    rw [issue_of_illegal decoded] at next
    cases next
    rfl

/-! ### Polls (R90) -/

theorem step_poll {offset : Nat} {r : HostReg} (moves : hostMoves s rest (.poll offset mask value) hs)
    (access : hostAccess? 32 offset = some r) : step s = .next { s with env := { s.env with
      schedule := rest
      host := if readReg s.params s.block r &&& mask = value then hs else s.env.host
      reads := s.env.reads ++ [readReg s.params s.block r] } } := by
  rw [step_hostMoves moves, hostTurn_poll (s := s.setEnv s.env.popSchedule) moves.2 access]
  simp only [State.setEnv_params, State.setEnv_block]
  split <;> next masked => simp [State.setEnv, Env.record, Env.popHost, Env.popSchedule, moves.1, moves.2, masked]

end Sys2Proof.Machine

namespace Sys2Proof.Claims

open Sys2Proof.Machine

/-- Settles O1: by the row of each command. -/
theorem decodeOfEncodeIsTheCommand : Obligations.DecodeOfEncodeIsTheCommand :=
  fun _ wf => decode_encode wf

/-- Settles O2: each row builds the command whose word selects it. -/
theorem encodeOfDecodeIsTheWord : Obligations.EncodeOfDecodeIsTheWord :=
  fun _ _ decoded => encode_of_decode decoded

/-- Settles O3: a word is illegal when it selects no row of any class, and no opcode is in two classes. -/
theorem illegalWordsAreExactlyTheListedOnes : Obligations.IllegalWordsAreExactlyTheListedOnes := by
  intro w
  rw [decode_error_iff_classes]
  simp only [List.mem_append]
  generalize w.toNat / 2 ^ 24 = opc
  obtain ⟨disjointZ, disjointA, disjointF⟩ := classes_disjoint opc
  by_cases z : opc ∈ opcodesZ
  · simp [z, disjointZ z, imp_iff_not_or]
  by_cases a : opc ∈ opcodesA
  · simp [z, a, disjointA a, imp_iff_not_or]
  by_cases f : opc ∈ opcodesF
  · simp [z, a, f, disjointF f]
  by_cases s : opc ∈ opcodesS
  · simp [z, a, f, s, imp_iff_not_or]
  · simp [z, a, f, s]

/-- Settles O4: each word is the encoding of its command. -/
theorem sampleWordsDecodeAsTheSpecLists : Obligations.SampleWordsDecodeAsTheSpecLists :=
  ⟨decode_encode (i := .nop) rfl, decode_encode (i := .enc) rfl, decode_encode (i := .fget 6 7) rfl,
    decode_encode (i := .fset 1 6) rfl, decode_encode (i := .fnew 1) rfl, decode_encode (i := .offs 15) rfl,
    decode_encode (i := .ttmp 4) rfl, decode_encode (i := .fdbk) rfl⟩

/-- Settles O5: the step is the issue of the word, and the word decodes. -/
theorem stepRunsTheDecodedCommand : Obligations.StepRunsTheDecodedCommand :=
  ⟨fun _ _ _ _ _ moves legal => (step_issue moves).trans (issue_of_decode legal _),
    fun s w _ legal => (step_issue (hostMoves_withFetchWord s w)).trans (issue_of_decode legal _)⟩

/-- Settles O6: the step is the issue of the word, and the word selects no row. -/
theorem stepOfAnIllegalWordRaisesIllegalCommand : Obligations.StepOfAnIllegalWordRaisesIllegalCommand :=
  fun _ _ _ _ _ moves illegal => (step_issue moves).trans (issue_of_illegal illegal _)

/-- Settles O7: a failing body has raised its code. -/
theorem failingCommandsChangeOnlyErr : Obligations.FailingCommandsChangeOnlyErr := by
  refine ⟨fun i s t => exec_failing, fun s t rest hs w moves next fails => ?_⟩
  have only := issue_failing ((step_issue moves).symm.trans next) fails
  have block := congrArg State.block only
  have params := congrArg State.params only
  have sent := congrArg (·.env.sent) only
  exact ⟨block, params, sent⟩

/-- Settles O10: opcode 0 is of class Z, so any other bit of its word makes the word illegal. -/
theorem nopOnlyClearsErr : Obligations.NopOnlyClearsErr := by
  refine ⟨rfl, rfl, fun w opcode nonzero => ?_, fun s => rfl⟩
  have positive : w.toNat ≠ 0 := fun zero => nonzero (BitVec.eq_of_toNat_eq zero)
  have listed : w.toNat / 2 ^ 24 ∈ opcodesZ := opcode ▸ by decide
  rw [illegalWordsAreExactlyTheListedOnes w]
  by_cases reserved : w.toNat / 2 ^ 7 % 2 ^ 17 = 0
  · exact .inr (.inr (.inl ⟨listed, by omega⟩))
  · exact .inr (.inl reserved)

/-- Settles O51: the register at a mapped offset is the one the poll reads. -/
theorem pollRepeatsUntilItMatches : Obligations.PollRepeatsUntilItMatches := by
  intro s rest hs offset w mask value mapped moves
  obtain ⟨r, rfl, rfl⟩ := mem_registerMap_iff.1 mapped
  rw [step_poll moves (hostAccess?_regOffset r)]
  exact ⟨fun ends => by rw [if_pos ends], fun stays => by rw [if_neg stays]⟩

end Sys2Proof.Claims

namespace Sys2Proof.Machine

/-! PROOFS. SPLIT and JOIN: a code as its two signed bytes (40_codec R103, R104, R106). -/

open Sys2Proof.Claims

variable {s t : State} {b : Block}

/-- A joined code is its high byte times 256 plus the pattern of its low byte (R104). -/
theorem joinF_toInt (h l : Byte) : (joinF h l).toInt = h.toInt * 256 + l.toInt % 256 := by
  have pattern : l.toInt % 256 = l.toNat := by
    rw [BitVec.toInt_eq_toNat_bmod]
    exact Int.bmod_emod.trans (Int.emod_eq_of_lt (by omega) (by omega))
  rw [joinF, BitVec.toInt_append, pattern, mul_comm]
  rfl

theorem byte_bounds (v : Byte) : -128 ≤ v.toInt ∧ v.toInt ≤ 127 :=
  ⟨v.le_toInt, BitVec.toInt_le⟩

theorem code_bounds (c : Code) : -32768 ≤ c.toInt ∧ c.toInt ≤ 32767 :=
  ⟨c.le_toInt, BitVec.toInt_le⟩

theorem arg_bounds (s : State) (i : Fin 5) : -32768 ≤ arg s i ∧ arg s i ≤ 32767 := code_bounds _

/-- The high byte is the floor of the code over 256 (R103). -/
theorem splitCode_high_toInt (c : Code) : (splitCode c).1.toInt = c.toInt / 256 := by
  have whole := joinF_toInt (splitCode c).1 (splitCode c).2
  rw [joinF_splitCode] at whole
  omega

/-- The low byte is the signed remainder of the code modulo 256 (R103). -/
theorem splitCode_low_toInt (c : Code) : (splitCode c).2.toInt = c.toInt.bmod 256 := by
  have whole := joinF_toInt (splitCode c).1 (splitCode c).2
  have bounds := byte_bounds (splitCode c).2
  rw [joinF_splitCode] at whole
  rw [Int.bmod_def]
  omega

/-- A byte operand is a register that holds the byte (R104). -/
theorem argByte?_eq_some_iff {i : Fin 5} {v : Byte} : argByte? b i = some v ↔ b.arg[i] = codeOfByte v := by
  constructor
  · intro named
    obtain ⟨w, byte, signed⟩ := argByte?_eq_some (b := b) (i := i) (by
      by_contra outside
      simp [argByte?, outside] at named)
    obtain rfl : w = v := Option.some.inj (byte.symm.trans named)
    exact BitVec.eq_of_toInt_eq (by rw [codeOfByte_toInt, signed, argInt])
  · intro holds
    have value : argInt b i = v.toInt := by rw [argInt, holds, codeOfByte_toInt]
    rw [argByte?, value, if_pos (byte_bounds v), BitVec.ofInt_toInt]

theorem argByte?_eq_none {i : Fin 5} (outside : ¬isInt8 (argInt b i)) : argByte? b i = none := if_neg outside

/-- SPLIT always completes (R103). -/
theorem exec_split (s : State) : exec .split s = resultsOnly s
    ((s.block.res.set 0 (codeOfByte (splitCode s.block.arg[0]).1)).set 1 (codeOfByte (splitCode s.block.arg[0]).2)) := rfl

/-- JOIN of two byte operands completes (R104). -/
theorem exec_join_bytes {h l : Byte} (high : argByte? s.block 0 = some h) (low : argByte? s.block 1 = some l) :
    exec .join s = resultsOnly s (s.block.res.set 0 (joinF h l)) := by
  simp only [exec, execJoin, high, low]
  rfl

/-- JOIN with an operand outside `int8` fails (R104). -/
theorem exec_join_outside (outside : argByte? s.block 0 = none ∨ argByte? s.block 1 = none) :
    exec .join s = failedWith s .rangeOverflow := by
  simp only [exec, execJoin]
  split
  · next high low => simp [high, low] at outside
  · rfl

/-- Inversion: a JOIN that completed had two byte operands and wrote their code (R104). -/
theorem exec_join_ok (next : exec .join s = .next t) (ok : t.block.err = .ok) :
    ∃ h l : Byte, s.block.arg[0] = codeOfByte h ∧ s.block.arg[1] = codeOfByte l ∧
      resultsOnly s (s.block.res.set 0 (joinF h l)) = .next t := by
  cases high : argByte? s.block 0 with
  | none =>
    rw [exec_join_outside (.inl high)] at next
    cases next
    cases ok
  | some h =>
    cases low : argByte? s.block 1 with
    | none =>
      rw [exec_join_outside (.inr low)] at next
      cases next
      cases ok
    | some l =>
      exact ⟨h, l, argByte?_eq_some_iff.1 high, argByte?_eq_some_iff.1 low, (exec_join_bytes high low).symm.trans next⟩

end Sys2Proof.Machine

namespace Sys2Proof.Claims

open Sys2Proof.Machine

/-- Settles O17: the two bytes of a code are its quotient and signed remainder. -/
theorem splitWritesTheTwoSignedBytes : Obligations.SplitWritesTheTwoSignedBytes :=
  ⟨decode_encode (i := .split) rfl, fun s => ⟨_, _, (codeOfByte_toInt _).trans (splitCode_high_toInt _),
    (codeOfByte_toInt _).trans (splitCode_low_toInt _), exec_split s⟩⟩

/-- Settles O18: an operand is a byte exactly when it lies in `int8`. -/
theorem joinWritesTheJoinedCode : Obligations.JoinWritesTheJoinedCode := by
  refine ⟨decode_encode (i := .join) rfl, fun s lower0 upper0 lower1 upper1 => ?_, fun s outside => ?_⟩
  · obtain ⟨h, high, highValue⟩ := argByte?_eq_some (b := s.block) (i := 0) ⟨lower0, upper0⟩
    obtain ⟨l, low, lowValue⟩ := argByte?_eq_some (b := s.block) (i := 1) ⟨lower1, upper1⟩
    refine ⟨_, ?_, exec_join_bytes high low⟩
    rw [joinF_toInt, highValue, lowValue]
    rfl
  · rw [← and_assoc, not_and_or] at outside
    exact exec_join_outside (outside.imp argByte?_eq_none argByte?_eq_none)

/-- Settles O19: the registers hold the bytes themselves, and `joinF` and `splitCode` are inverse. -/
theorem splitAndJoinAreInverse : Obligations.SplitAndJoinAreInverse := by
  refine ⟨fun s t next => ?_, fun s t next ok => ?_⟩
  · rw [exec_split] at next
    cases next
    rw [exec_join_bytes (h := (splitCode s.block.arg[0]).1) (l := (splitCode s.block.arg[0]).2)
      (argByte?_eq_some_iff.2 (by simp)) (argByte?_eq_some_iff.2 (by simp)), joinF_splitCode]
    rfl
  · obtain ⟨h, l, high, low, joined⟩ := exec_join_ok next ok
    cases joined
    simp [exec_split, high, low, resultsOnly]

end Sys2Proof.Claims

namespace Sys2Proof.Machine

/-! PROOFS. Round and Fit of the exact image: the integer forms of the encode and of the wheel code are `Round(Fit(t, lo, hi))`
of one exact number `t` (40_codec R100 to R102, 44_drive R182). -/

open Sys2Proof.Claims

/-! ### Fit under clamp -/

section Clamp

variable {K : Type} [LinearOrder K] {lo hi t u : K}

theorem clampTo_of_mem (lower : lo ≤ t) (upper : t ≤ hi) : clampTo lo hi t = t := by
  rw [clampTo, min_eq_right upper, max_eq_right lower]

theorem clampTo_of_lt (below : t < lo) (order : lo ≤ hi) : clampTo lo hi t = lo := by
  rw [clampTo, min_eq_right (below.le.trans order), max_eq_left below.le]

theorem clampTo_of_gt (above : hi < t) (order : lo ≤ hi) : clampTo lo hi t = hi := by
  rw [clampTo, min_eq_left above.le, max_eq_right order]

theorem clampTo_mono (le : t ≤ u) : clampTo lo hi t ≤ clampTo lo hi u :=
  max_le_max_left _ (min_le_min_left _ le)

end Clamp

/-! ### The codes of full scale (R32, R142) -/

section FullScale

variable {K : Type} [Field K] [LinearOrder K] [IsStrictOrderedRing K] {t : K}

theorem fullScale_within (within : |t| ≤ 16384) : ((-16384 : Int) : K) ≤ t ∧ t ≤ (16384 : Int) := by
  push_cast
  exact abs_le.1 within

theorem fullScale_beyond (beyond : 16384 < |t|) : t < (-16384 : Int) ∨ ((16384 : Int) : K) < t := by
  push_cast
  rcases lt_abs.1 beyond with above | below
  · exact .inr above
  · exact .inl (lt_neg_of_lt_neg below)

end FullScale

/-! ### Fit and Round together -/

section Exact

variable {K : Type} [Field K] [LinearOrder K] [FloorRing K] {p : Params} {lo hi n : Int} {t u : K}

/-- `Round(Fit(t, lo, hi))` of an exact number (R100, R101). -/
def roundFit (p : Params) (lo hi : Int) (t : K) : Except ErrCode Int :=
  if (lo : K) ≤ t ∧ t ≤ hi then .ok (roundExact p.encRound t)
  else match p.ovfPolicy with
    | .error => .error .rangeOverflow
    | .clamp => .ok (roundExact p.encRound (clampTo (lo : K) hi t))

theorem roundFit_inside (lower : (lo : K) ≤ t) (upper : t ≤ hi) : roundFit p lo hi t = .ok (roundExact p.encRound t) :=
  if_pos ⟨lower, upper⟩

theorem roundFit_error (policy : p.ovfPolicy = .error) (outside : t < lo ∨ (hi : K) < t) :
    roundFit p lo hi t = .error .rangeOverflow := by
  rw [roundFit, if_neg (by rwa [not_and_or, not_le, not_le]), policy]

theorem roundFit_clamp (policy : p.ovfPolicy = .clamp) :
    roundFit p lo hi t = .ok (roundExact p.encRound (clampTo (lo : K) hi t)) := by
  unfold roundFit
  split
  · next inside => rw [clampTo_of_mem inside.1 inside.2]
  · rw [policy]

/-- Everything `roundFit` can answer: the saturated code, or RangeOverflow. -/
theorem roundFit_cases (p : Params) (lo hi : Int) (t : K) :
    roundFit p lo hi t = .ok (roundExact p.encRound (clampTo (lo : K) hi t)) ∨
    roundFit p lo hi t = .error .rangeOverflow := by
  cases policy : p.ovfPolicy with
  | clamp => exact .inl (roundFit_clamp policy)
  | error =>
    by_cases inside : (lo : K) ≤ t ∧ t ≤ hi
    · rw [clampTo_of_mem inside.1 inside.2]
      exact .inl (roundFit_inside inside.1 inside.2)
    · rw [not_and_or, not_le, not_le] at inside
      exact .inr (roundFit_error policy inside)

/-- A code answered is the saturated one, whatever the policy. -/
theorem roundFit_ok (code : roundFit p lo hi t = .ok n) : n = roundExact p.encRound (clampTo (lo : K) hi t) := by
  rcases roundFit_cases p lo hi t with ok | error
  · exact Except.ok.inj (code.symm.trans ok)
  · exact absurd (code.symm.trans error) (by simp)

/-! ### Round -/

theorem roundExact_mono (r : Rounding) (le : t ≤ u) : roundExact r t ≤ roundExact r u := by
  cases r with
  | floor => exact Int.floor_mono le
  | trunc =>
    simp only [roundExact]
    split_ifs with nonnegT nonnegU nonnegU
    · exact Int.floor_mono le
    · exact absurd (nonnegT.trans le) nonnegU
    · exact (Int.ceil_nonpos.2 (not_le.1 nonnegT).le).trans (Int.floor_nonneg.2 nonnegU)
    · exact Int.ceil_mono le

variable [IsStrictOrderedRing K]

/-- R100's integer quotient is the rounding of the exact one. -/
theorem roundDiv_eq_roundExact (r : Rounding) {num den : Int} (pos : 0 < den) :
    roundDiv r num den = roundExact r ((num : K) / den) := by
  cases r with
  | trunc => exact roundDiv_trunc_eq num den pos
  | floor => exact roundDiv_floor_eq num den pos

@[simp] theorem roundExact_intCast (r : Rounding) (n : Int) : roundExact r (n : K) = n := by
  cases r <;> simp [roundExact]

/-- Round toward zero is odd (R100). -/
theorem roundExact_trunc_neg (t : K) : roundExact .trunc (-t) = -roundExact .trunc t := by
  rcases lt_trichotomy t 0 with neg | rfl | pos
  · simp [roundExact, neg.le, not_le.2 neg, Int.floor_neg]
  · simp [roundExact]
  · simp [roundExact, pos.le, not_le.2 pos, Int.ceil_neg]

/-- Saturating to a range symmetric about 0 is odd (R101). -/
theorem clampTo_neg {bound : K} (nonneg : 0 ≤ bound) (t : K) : clampTo (-bound) bound (-t) = -clampTo (-bound) bound t := by
  have order : -bound ≤ bound := by linarith
  rcases lt_or_ge t (-bound) with below | lower
  · rw [clampTo_of_lt below order, clampTo_of_gt (by linarith) order, neg_neg]
  · rcases lt_or_ge bound t with above | upper
    · rw [clampTo_of_gt above order, clampTo_of_lt (by linarith) order]
    · rw [clampTo_of_mem lower upper, clampTo_of_mem (by linarith) (by linarith)]

/-- A code answered lies in the range (R101). -/
theorem roundFit_range (order : lo ≤ hi) (code : roundFit p lo hi t = .ok n) : lo ≤ n ∧ n ≤ hi := by
  have lower : (lo : K) ≤ clampTo (lo : K) hi t := le_max_left _ _
  have upper : clampTo (lo : K) hi t ≤ hi := max_le (Int.cast_le.2 order) (min_le_left _ _)
  rw [roundFit_ok code]
  constructor
  · simpa using roundExact_mono p.encRound lower
  · simpa using roundExact_mono p.encRound upper

/-- Beyond full scale Fit saturates at the end the image lies towards (R101). -/
theorem roundFit_beyond_clamp {N : Int} (policy : p.ovfPolicy = .clamp) (beyond : 16384 < |t|) (positive : 0 < t ↔ 0 < N)
    (negative : t < 0 ↔ N < 0) : roundFit p (-16384) 16384 t = .ok (N.sign * 16384) := by
  have order : ((-16384 : Int) : K) ≤ (16384 : Int) := Int.cast_le.2 (by decide)
  rw [roundFit_clamp policy]
  rcases fullScale_beyond beyond with below | above
  · have sign := negative.1 (below.trans (Int.cast_lt_zero.2 (by decide)))
    rw [clampTo_of_lt below order, roundExact_intCast, Int.sign_eq_neg_one_of_neg sign, neg_one_mul]
  · have sign := positive.1 ((Int.cast_pos.2 (by decide)).trans above)
    rw [clampTo_of_gt above order, roundExact_intCast, Int.sign_eq_one_of_pos sign, one_mul]

/-! ### The integer forms -/

/-- R101's integer form of Fit and Round is that of the exact quotient. -/
theorem fitRound_eq_roundFit (p : Params) {num den : Int} (c1 c2 : Int) (pos : 0 < den) :
    fitRound p num den c1 c2 = roundFit p (min c1 c2) (max c1 c2) ((num : K) / den) := by
  have lowerIff : min c1 c2 * den ≤ num ↔ ((min c1 c2 : Int) : K) ≤ num / den := mul_le_iff_le_div pos
  have upperIff : num ≤ max c1 c2 * den ↔ (num : K) / den ≤ (max c1 c2 : Int) := le_mul_iff_div_le pos
  have order : ((min c1 c2 : Int) : K) ≤ (max c1 c2 : Int) := Int.cast_le.2 min_le_max
  have exactBound (c : Int) : roundDiv p.encRound (c * den) den = c := by
    have bounds := roundDiv_bounds p.encRound pos (le_refl (c * den)) le_rfl
    omega
  rcases fit_cases p.ovfPolicy num den c1 c2 with ⟨lower, upper, -⟩ | ⟨outside, policy, fails⟩ | ⟨below, policy, low⟩ |
    ⟨-, above, policy, high⟩
  · rw [roundFit_inside (lowerIff.1 lower) (upperIff.1 upper), fitRound_inside p lower upper, ← roundDiv_eq_roundExact _ pos]
  · rw [lowerIff, upperIff, not_and_or, not_le, not_le] at outside
    rw [roundFit_error policy outside, fitRound, fails]
  · rw [← not_le, lowerIff, not_le] at below
    rw [roundFit_clamp policy, clampTo_of_lt below order, roundExact_intCast, fitRound, low]
    exact congrArg Except.ok (exactBound _)
  · rw [← not_le, upperIff, not_le] at above
    rw [roundFit_clamp policy, clampTo_of_gt above order, roundExact_intCast, fitRound, high]
    exact congrArg Except.ok (exactBound _)

/-- R102's integer form is the affine image of the exact value, fitted and rounded once. -/
theorem affineEncode_eq_roundFit (p : Params) {vn vd dmin dmax : Int} (cmin cmax : Int) (pos : 0 < vd) (wide : dmax ≠ dmin) :
    affineEncode p vn vd dmin dmax cmin cmax =
      roundFit p (min cmin cmax) (max cmin cmax) (affineImage ((vn : K) / vd) dmin dmax cmin cmax) := by
  have vdNe : (vd : K) ≠ 0 := Int.cast_ne_zero.2 pos.ne'
  have widthNe : (dmax : K) - dmin ≠ 0 := sub_ne_zero.2 (Int.cast_injective.ne wide)
  have denNe : (dmax - dmin) * vd ≠ 0 := mul_ne_zero (sub_ne_zero.2 wide) pos.ne'
  have image : affineImage ((vn : K) / vd) dmin dmax cmin cmax =
      ((cmin * ((dmax - dmin) * vd) + (vn - dmin * vd) * (cmax - cmin) : Int) : K) / ((dmax - dmin) * vd : Int) := by
    push_cast [affineImage]
    field_simp
  unfold affineEncode
  split
  · next negative =>
    rw [fitRound_eq_roundFit (K := K) p _ _ (by omega), image, Int.cast_neg, Int.cast_neg, neg_div_neg_eq]
  · rw [fitRound_eq_roundFit (K := K) p _ _ (by omega), image]

end Exact

end Sys2Proof.Machine

namespace Sys2Proof.Machine

/-! PROOFS. ENC: its outcome is Round and Fit of the exact affine image (40_codec R100 to R102, R105). -/

open Sys2Proof.Claims

variable {s t : State} {n : Int} {v : Code}

/-! ### ENC over its codomain -/

/-- `Round(Fit(t))` of ENC's exact image over its codomain (R102). -/
def encCode (s : State) : Except ErrCode Int :=
  roundFit s.params (min (arg s 3) (arg s 4)) (max (arg s 3) (arg s 4)) (encImage s)

/-- The codomain's bounds are operands, so a code ENC answers fits 16 bits. -/
theorem encCode_toInt (code : encCode s = .ok n) : (codeOf n).toInt = n := by
  have range := roundFit_range min_le_max code
  have bounds3 := arg_bounds s 3
  have bounds4 := arg_bounds s 4
  exact codeOf_toInt (by omega) (by omega)

/-- ENC of a zero-width domain fails (R102). -/
theorem exec_enc_zeroWidth (point : arg s 2 = arg s 1) : exec .enc s = failedWith s .domainError :=
  congrArg (commit s) (if_pos point)

theorem exec_enc_wide (wide : arg s 2 ≠ arg s 1) :
    exec .enc s = commit s (withCode (encCode s) fun c => .done (s.block.setRes 0 (codeOf c))) := by
  have code := affineEncode_eq_roundFit (K := ℚ) s.params (vn := arg s 0) (arg s 3) (arg s 4) one_pos wide
  rw [Int.cast_one, div_one] at code
  exact congrArg (commit s) ((if_neg wide).trans (congrArg (withCode · _) code))

/-- ENC of an image that has a code completes with it. -/
theorem exec_enc_ok (wide : arg s 2 ≠ arg s 1) (code : encCode s = .ok n) :
    exec .enc s = resultsOnly s (s.block.res.set 0 (codeOf n)) := by
  rw [exec_enc_wide wide, code]
  rfl

theorem exec_enc_error {e : ErrCode} (wide : arg s 2 ≠ arg s 1) (code : encCode s = .error e) :
    exec .enc s = failedWith s e := by
  rw [exec_enc_wide wide, code]
  rfl

/-- The image of the value `x` through ENC's domain and codomain, saturated (R101, R102). -/
def encSaturated (s : State) (x : ℚ) : ℚ :=
  clampTo ((min (arg s 3) (arg s 4) : Int) : ℚ) ((max (arg s 3) (arg s 4) : Int) : ℚ)
    (affineImage x (arg s 1) (arg s 2) (arg s 3) (arg s 4))

/-- Inversion: an ENC that completed wrote the rounding of its saturated image. -/
theorem exec_enc_inv (wide : arg s 2 ≠ arg s 1) (next : exec .enc s = .next t) (ok : t.block.err = .ok) :
    t.block.res[0].toInt = roundExact s.params.encRound (encSaturated s (arg s 0)) := by
  rcases roundFit_cases s.params (min (arg s 3) (arg s 4)) (max (arg s 3) (arg s 4)) (encImage s) with code | overflow
  · rw [exec_enc_ok wide code] at next
    cases next
    exact (congrArg BitVec.toInt (Vector.getElem_set_self _)).trans (encCode_toInt code)
  · rw [exec_enc_error wide overflow] at next
    cases next
    cases ok

/-! ### The affine image -/

section Image

variable {v w dmin dmax cmin cmax : ℚ}

theorem affineImage_at_min : affineImage dmin dmin dmax cmin cmax = cmin := by
  simp [affineImage]

theorem affineImage_at_max (wide : dmax ≠ dmin) : affineImage dmax dmin dmax cmin cmax = cmax := by
  rw [affineImage, mul_div_cancel_left₀ _ (sub_ne_zero.2 wide)]
  ring

theorem affineImage_neg (v : ℚ) : affineImage v dmin dmax (-cmin) (-cmax) = -affineImage v dmin dmax cmin cmax := by
  simp only [affineImage]
  ring

/-- The image grows with the value when domain and codomain run the same way (R105). -/
theorem affineImage_mono (sameWay : 0 < (dmax - dmin) * (cmax - cmin)) (le : v ≤ w) :
    affineImage v dmin dmax cmin cmax ≤ affineImage w dmin dmax cmin cmax := by
  have slope : 0 < (cmax - cmin) / (dmax - dmin) := by
    rw [mul_comm, mul_pos_iff] at sameWay
    exact div_pos_iff.2 sameWay
  have grows := mul_le_mul_of_nonneg_right (sub_le_sub_right le dmin) slope.le
  simp only [affineImage, mul_div_assoc]
  linarith

/-- The image falls as the value grows when domain and codomain run opposite ways (R105). -/
theorem affineImage_anti (oppositeWays : (dmax - dmin) * (cmax - cmin) < 0) (le : v ≤ w) :
    affineImage w dmin dmax cmin cmax ≤ affineImage v dmin dmax cmin cmax := by
  have sameWay : 0 < (dmax - dmin) * (-cmax - -cmin) := by linarith
  have reversed := affineImage_mono sameWay le
  rw [affineImage_neg, affineImage_neg] at reversed
  exact neg_le_neg_iff.1 reversed

end Image

/-! ### ENC of another value -/

/-- The machine with another value to encode, its other operands kept. -/
def withValue (s : State) (v : Code) : State := s.setBlock (s.block.setArg 0 v)

@[simp] theorem arg_withValue_zero (s : State) (v : Code) : arg (withValue s v) 0 = v.toInt := by
  simp [arg, withValue]

@[simp] theorem arg_withValue_of_ne (s : State) (v : Code) {i : Fin 5} (other : i ≠ 0) : arg (withValue s v) i = arg s i := by
  have index : 0 ≠ i.val := fun zero => other (Fin.ext zero.symm)
  simp [arg, withValue, index]

theorem encSaturated_withValue (s : State) (v : Code) : encSaturated (withValue s v) = encSaturated s := by
  funext x
  simp [encSaturated]

theorem exec_enc_withValue_inv (wide : arg s 2 ≠ arg s 1) (next : exec .enc (withValue s v) = .next t)
    (ok : t.block.err = .ok) : t.block.res[0].toInt = roundExact s.params.encRound (encSaturated s v.toInt) := by
  have wide' : arg (withValue s v) 2 ≠ arg (withValue s v) 1 := by simpa using wide
  have code := exec_enc_inv wide' next ok
  rwa [encSaturated_withValue, arg_withValue_zero] at code

/-- A codomain of one point saturates every image to it. -/
theorem encSaturated_point (point : arg s 3 = arg s 4) (x : ℚ) : encSaturated s x = arg s 3 := by
  simp [encSaturated, clampTo, ← point]

end Sys2Proof.Machine

namespace Sys2Proof.Claims

open Sys2Proof.Machine

/-- Settles O11: within the codomain Fit passes the image. -/
theorem encWritesTheRoundedExactImage : Obligations.EncWritesTheRoundedExactImage := by
  intro s wide lower upper
  have code : encCode s = .ok _ := roundFit_inside lower upper
  exact ⟨_, encCode_toInt code, exec_enc_ok wide code⟩

/-- Settles O12: outside the codomain Fit fails under the error policy. -/
theorem encRejectsAnImageOutsideTheCodomain : Obligations.EncRejectsAnImageOutsideTheCodomain :=
  fun _ policy wide outside => exec_enc_error wide (roundFit_error policy outside)

/-- Settles O13: under the clamp policy Fit always passes the saturated image. -/
theorem encSaturatesUnderClamp : Obligations.EncSaturatesUnderClamp := by
  intro s policy wide
  have code : encCode s = .ok _ := roundFit_clamp policy
  exact ⟨_, encCode_toInt code, exec_enc_ok wide code⟩

/-- Settles O14: at either end the image is an integer within the codomain. -/
theorem encIsExactAtBothEndpoints : Obligations.EncIsExactAtBothEndpoints := by
  intro s wide
  have atEnd (i : Fin 5) (image : encImage s = arg s i) (lower : min (arg s 3) (arg s 4) ≤ arg s i)
      (upper : arg s i ≤ max (arg s 3) (arg s 4)) :
      exec .enc s = resultsOnly s (s.block.res.set 0 s.block.arg[i]) := by
    have code : encCode s = .ok (arg s i) := by
      rw [encCode, image, roundFit_inside (Int.cast_le.2 lower) (Int.cast_le.2 upper), roundExact_intCast]
    rw [exec_enc_ok wide code, codeOf, arg, BitVec.ofInt_toInt]
  refine ⟨fun atMin => atEnd 3 ?_ (min_le_left _ _) (le_max_left _ _),
    fun atMax => atEnd 4 ?_ (min_le_right _ _) (le_max_right _ _)⟩
  · rw [encImage, atMin, affineImage_at_min]
  · rw [encImage, atMax, affineImage_at_max (Int.cast_injective.ne wide)]

/-- Settles O15: the image, Fit under clamp and Round are each monotone in what they are given. -/
theorem encIsMonotoneInItsValue : Obligations.EncIsMonotoneInItsValue := by
  intro s t u v w wide le nextT okT nextU okU
  have le' : (v.toInt : ℚ) ≤ w.toInt := Int.cast_le.2 le
  rw [exec_enc_withValue_inv wide nextT okT, exec_enc_withValue_inv wide nextU okU]
  refine ⟨fun sameWay => ?_, fun oppositeWays => ?_, fun point => ?_⟩
  · exact roundExact_mono _ (clampTo_mono (affineImage_mono (by exact_mod_cast sameWay) le'))
  · exact roundExact_mono _ (clampTo_mono (affineImage_anti (by exact_mod_cast oppositeWays) le'))
  · rw [encSaturated_point point, encSaturated_point point, roundExact_intCast]
    exact ⟨rfl, rfl⟩

end Sys2Proof.Claims

namespace Sys2Proof.Machine

/-! PROOFS. ENCSPD, TURN and TSTMV: the speed code is Round and Fit of the exact image of the percentage (42_channel R142,
R144, 44_drive R185, R186). -/

open Sys2Proof.Claims

variable {s : State} {p : Params} {P n m : Int}

/-! ### The speed code (R142) -/

/-- Full scale is 16384 for 100 percent (R142). -/
theorem speedImage_eq {K : Type} [Field K] [CharZero K] (q : K) : speedImage q = q * 16384 / 100 := by
  rw [speedImage, affineImage]
  field_simp
  ring

theorem speedImage_neg {K : Type} [Field K] [CharZero K] (q : K) : speedImage (-q) = -speedImage q := by
  rw [speedImage_eq, speedImage_eq]
  ring

theorem abs_speedImage (q : ℚ) : |speedImage q| = |q| * 16384 / 100 := by
  rw [speedImage_eq, abs_div, abs_mul, abs_of_pos (by norm_num : (0 : ℚ) < 16384), abs_of_pos (by norm_num : (0 : ℚ) < 100)]

theorem abs_speedImage_le_iff {q : ℚ} : |speedImage q| ≤ 16384 ↔ |q| ≤ 100 := by
  rw [abs_speedImage]
  constructor <;> intro bound <;> linarith

theorem lt_abs_speedImage_iff {q : ℚ} : 16384 < |speedImage q| ↔ 100 < |q| := by
  rw [← not_le, ← not_le, abs_speedImage_le_iff]

@[simp] theorem percent_neg (p : Params) (P : Int) : percent p (-P) = -percent p P := by
  rw [percent, percent, Int.cast_neg, neg_div]

theorem speedImage_percent_pos_iff : 0 < speedImage (percent p P) ↔ 0 < P := by
  have scale : (0 : ℚ) < 2 ^ p.pctFrac := by positivity
  rw [speedImage_eq, percent, div_pos_iff_of_pos_right (by norm_num), mul_pos_iff_of_pos_right (by norm_num),
    div_pos_iff_of_pos_right scale, Int.cast_pos]

theorem speedImage_percent_neg_iff : speedImage (percent p P) < 0 ↔ P < 0 := by
  have mirrored := speedImage_percent_pos_iff (p := p) (P := -P)
  rwa [percent_neg, speedImage_neg, neg_pos, neg_pos] at mirrored

theorem operandCode_eq_roundFit (p : Params) (P : Int) :
    operandCode p P = roundFit p (-16384) 16384 (speedImage (percent p P)) := by
  have scale : (0 : Int) < 100 * 2 ^ p.pctFrac := by positivity
  have value : (((20 * P : Int) : ℚ)) / ((100 * 2 ^ p.pctFrac : Int) : ℚ) = 20 * percent p P / 100 := by
    push_cast [percent]
    field_simp
  rw [operandCode, speedCode, affineEncode_eq_roundFit (K := ℚ) p _ _ scale (by decide), value, speedImage]
  norm_num

/-- A speed code fits 16 bits (R32). -/
theorem operandCode_toInt (code : operandCode p P = .ok n) : (codeOf n).toInt = n := by
  have range := operandCode_range code
  exact codeOf_toInt (by omega) (by omega)

/-- Within full scale Fit passes the image. -/
theorem operandCode_inside (within : |percent p P| ≤ 100) :
    operandCode p P = .ok (roundExact p.encRound (speedImage (percent p P))) := by
  obtain ⟨lower, upper⟩ := fullScale_within (abs_speedImage_le_iff.2 within)
  rw [operandCode_eq_roundFit, roundFit_inside lower upper]

theorem operandCode_beyond_error (policy : p.ovfPolicy = .error) (beyond : 100 < |percent p P|) :
    operandCode p P = .error .rangeOverflow := by
  rw [operandCode_eq_roundFit, roundFit_error policy (fullScale_beyond (lt_abs_speedImage_iff.2 beyond))]

/-- Beyond full scale Fit saturates at the end the operand lies towards (R101). -/
theorem operandCode_beyond_clamp (policy : p.ovfPolicy = .clamp) (beyond : 100 < |percent p P|) :
    operandCode p P = .ok (P.sign * 16384) := by
  rw [operandCode_eq_roundFit, roundFit_beyond_clamp policy (lt_abs_speedImage_iff.2 beyond) speedImage_percent_pos_iff
    speedImage_percent_neg_iff]

/-! ### The three commands, given their codes -/

theorem exec_encspd_ok (code : operandCode s.params (arg s 0) = .ok n) : exec .encspd s =
    resultsOnly s #v[codeOfByte (splitCode (codeOf n)).1, codeOfByte (splitCode (codeOf n)).2, codeOf n] := by
  have registers (v : Vector Code 3) (x y z : Code) : ((v.set 0 x).set 1 y).set 2 z = #v[x, y, z] := by
    ext k hk
    interval_cases k <;> simp
  rw [← registers s.block.res]
  exact congrArg (commit s) (congrArg (withCode · _) code)

theorem exec_turn_ok (code : operandCode s.params (arg s 0) = .ok n) :
    exec .turn s = speedsOnly s #v[codeOf n, codeOf n, codeOf n, codeOf n] := by
  have body : exec .turn s = commit s (.done (setSpeeds s.block n n n n)) :=
    congrArg (commit s) (congrArg (withCode · _) code)
  rw [body, setSpeeds_eq]
  rfl

theorem exec_tstmv_ok (front : operandCode s.params (arg s 0) = .ok n) (back : operandCode s.params (-arg s 0) = .ok m) :
    exec .tstmv s = speedsOnly s #v[codeOf n, s.block.spd[1], codeOf m, s.block.spd[3]] := by
  have channels (v : Vector Code 4) (x z : Code) : (v.set 0 x).set 2 z = #v[x, v[1], z, v[3]] := by
    ext k hk
    interval_cases k <;> simp
  have body : exec .tstmv s = commit s (withCode (operandCode s.params (arg s 0)) fun c1 =>
      withCode (operandCode s.params (-arg s 0)) fun c3 => .done ((s.block.setSpd 0 (codeOf c1)).setSpd 2 (codeOf c3))) := rfl
  rw [body, front, withCode_ok, back, withCode_ok, ← channels]
  rfl

/-- The three direct speed commands fail with the error of their percentage. -/
theorem exec_speed_error {e : ErrCode} (code : operandCode s.params (arg s 0) = .error e) :
    ∀ i ∈ [Instr.encspd, Instr.turn, Instr.tstmv], exec i s = failedWith s e := by
  intro i mem
  simp only [List.mem_cons, List.not_mem_nil, or_false] at mem
  rcases mem with rfl | rfl | rfl <;> exact congrArg (commit s) (congrArg (withCode · _) code)

/-- ENCSPD's three results, as numbers, when its percentage has a code (R103, R144). -/
theorem exec_encspd_results (code : operandCode s.params (arg s 0) = .ok n) :
    ∃ h l c : Code, c.toInt = n ∧ h.toInt = c.toInt / 256 ∧ l.toInt = c.toInt.bmod 256 ∧
      exec .encspd s = resultsOnly s #v[h, l, c] :=
  ⟨_, _, _, operandCode_toInt code, (codeOfByte_toInt _).trans (splitCode_high_toInt _),
    (codeOfByte_toInt _).trans (splitCode_low_toInt _), exec_encspd_ok code⟩

end Sys2Proof.Machine

namespace Sys2Proof.Claims

open Sys2Proof.Machine

/-- Settles O26: within full scale the percentage has a code. -/
theorem encspdWritesBytesAndCode : Obligations.EncspdWritesBytesAndCode :=
  fun _ within => exec_encspd_results (operandCode_inside within)

/-- Settles O27: within full scale the percentage has a code. -/
theorem turnGivesAllWheelsTheSameCode : Obligations.TurnGivesAllWheelsTheSameCode :=
  fun _ within =>
    have code := operandCode_inside within
    ⟨_, operandCode_toInt code, exec_turn_ok code⟩

/-- Settles O28: the percentage and its negation are within full scale together. -/
theorem tstmvDrivesTwoDiagonalWheels : Obligations.TstmvDrivesTwoDiagonalWheels := by
  intro s within
  have front := operandCode_inside within
  have back := operandCode_inside (p := s.params) (P := -arg s 0) (by rwa [percent_neg, abs_neg])
  exact ⟨_, _, operandCode_toInt front, by rw [operandCode_toInt back, percent_neg], exec_tstmv_ok front back⟩

/-- Settles O29: beyond full scale Fit fails. -/
theorem speedBeyondFullScaleIsRejected : Obligations.SpeedBeyondFullScaleIsRejected :=
  fun _ policy beyond => exec_speed_error (operandCode_beyond_error policy beyond)

/-- Settles O30: beyond full scale Fit saturates. -/
theorem speedBeyondFullScaleSaturatesUnderClamp : Obligations.SpeedBeyondFullScaleSaturatesUnderClamp := by
  intro s policy beyond
  have front := operandCode_beyond_clamp policy beyond
  have back := operandCode_beyond_clamp (P := -arg s 0) policy (by rwa [percent_neg, abs_neg])
  refine ⟨codeOf ((arg s 0).sign * 16384), codeOf ((-arg s 0).sign * 16384), _, _, operandCode_toInt front, ?_,
    (codeOfByte_toInt _).trans (splitCode_high_toInt _), (codeOfByte_toInt _).trans (splitCode_low_toInt _),
    exec_encspd_ok front, exec_turn_ok front, exec_tstmv_ok front back⟩
  rw [operandCode_toInt front, operandCode_toInt back, Int.sign_neg, neg_mul]

/-- Settles O31: the exact image of `P / 2 ^ 8` percent is `16 * P / 25`. -/
theorem speedCodeHasTheClosedForm : Obligations.SpeedCodeHasTheClosedForm := by
  intro s frac within
  have quotient : percent s.params (arg s 0) = arg s 0 / 256 := by
    rw [percent, frac]
    norm_num
  have image : speedImage (percent s.params (arg s 0)) = ((16 * arg s 0 : Int) : ℚ) / (25 : Int) := by
    rw [speedImage_eq, quotient]
    push_cast
    ring
  have fullScale : |percent s.params (arg s 0)| ≤ 100 := by
    have bound : ((|arg s 0| : Int) : ℚ) ≤ 25600 := by exact_mod_cast within
    rw [Int.cast_abs] at bound
    rw [quotient, abs_div, abs_of_pos (by norm_num : (0 : ℚ) < 256)]
    linarith
  obtain ⟨h, l, c, code, -, -, next⟩ := exec_encspd_results (operandCode_inside fullScale)
  rw [image, ← roundDiv_eq_roundExact _ (by decide)] at code
  exact ⟨h, l, c, next, fun trunc => by rw [code, trunc]; rfl, fun floor => by rw [code, floor]; rfl⟩

end Sys2Proof.Claims

namespace Sys2Proof.Machine

/-! PROOFS. SHIFT: each wheel's code is Round and Fit of its exact real image, and the image is that of R180's polar
algorithm (44_drive R180 to R184). -/

open Sys2Proof.Claims

variable {s t : State} {p : Params} {x y : Int}

/-! ### The exact wheel image of R182 -/

/-- `D * sqrt(M)` of R182. -/
noncomputable def wheelScale (p : Params) (x y : Int) : ℝ := 100 * 2 ^ p.pctFrac * √(2 * (x ^ 2 + y ^ 2))

/-- `t = N / (D * sqrt(M))` of R182. -/
noncomputable def wheelExact (p : Params) (α β x y S : Int) : ℝ := wheelNum α β x y S / wheelScale p x y

theorem sum_sq_pos (ne : ¬(x = 0 ∧ y = 0)) : (0 : ℝ) < x ^ 2 + y ^ 2 := by
  rcases not_and_or.1 ne with h | h
  · have : (x : ℝ) ≠ 0 := Int.cast_ne_zero.2 h
    positivity
  · have : (y : ℝ) ≠ 0 := Int.cast_ne_zero.2 h
    positivity

theorem wheelScale_pos (p : Params) (ne : ¬(x = 0 ∧ y = 0)) : 0 < wheelScale p x y := by
  have := sum_sq_pos ne
  unfold wheelScale
  positivity

theorem wheelScale_sq (p : Params) (x y : Int) : wheelScale p x y ^ 2 = wheelDen p x y := by
  rw [wheelScale, mul_pow, Real.sq_sqrt (by positivity), wheelDen]
  push_cast
  ring

/-- The opposite row gives the negated image (R183). -/
theorem wheelExact_neg (p : Params) (α β x y S : Int) : wheelExact p (-α) (-β) x y S = -wheelExact p α β x y S := by
  rw [wheelExact, wheelExact, ← neg_div, ← Int.cast_neg]
  congr 2
  simp only [wheelNum]
  ring

theorem wheelExact_sq (p : Params) (α β x y S : Int) :
    wheelExact p α β x y S ^ 2 = (wheelNum α β x y S * wheelNum α β x y S : Int) / (wheelDen p x y : Int) := by
  rw [wheelExact, div_pow, wheelScale_sq, sq, Int.cast_mul]

section WheelCode

variable {α β S : Int} (ne : ¬(x = 0 ∧ y = 0))

include ne

theorem wheelExact_nonneg_iff : 0 ≤ wheelExact p α β x y S ↔ 0 ≤ wheelNum α β x y S := by
  rw [wheelExact, le_div_iff₀ (wheelScale_pos p ne), zero_mul, Int.cast_nonneg_iff]

theorem wheelExact_pos_iff : 0 < wheelExact p α β x y S ↔ 0 < wheelNum α β x y S := by
  rw [wheelExact, div_pos_iff_of_pos_right (wheelScale_pos p ne), Int.cast_pos]

/-- R182's comparison of squares is the comparison of the image with full scale. -/
theorem wheelNum_fits_iff : wheelNum α β x y S * wheelNum α β x y S ≤ 16384 * 16384 * wheelDen p x y ↔
    |wheelExact p α β x y S| ≤ 16384 := by
  have den : (0 : ℝ) < wheelDen p x y := Int.cast_pos.2 (wheelDen_pos p ne)
  rw [← sq_le_sq₀ (abs_nonneg (wheelExact p α β x y S)) (by norm_num), sq_abs, wheelExact_sq, div_le_iff₀ den, sq (16384 : ℝ)]
  norm_cast

/-- R182's integer root is the rounding of the exact image (R100). -/
theorem roundRoot_eq_roundExact (r : Rounding) :
    roundRoot r (wheelNum α β x y S) (wheelNum α β x y S * wheelNum α β x y S).toNat (wheelDen p x y).toNat =
      roundExact r (wheelExact p α β x y S) := by
  have den := wheelDen_pos p ne
  have denNat : 0 < (wheelDen p x y).toNat := by omega
  have natCast {n : Int} (nonneg : 0 ≤ n) : ((n.toNat : ℕ) : ℝ) = n := by
    exact_mod_cast congrArg (Int.cast (R := ℝ)) (Int.toNat_of_nonneg nonneg)
  have square : wheelExact p α β x y S * wheelExact p α β x y S =
      ((wheelNum α β x y S * wheelNum α β x y S).toNat : ℝ) / (wheelDen p x y).toNat := by
    rw [← sq, wheelExact_sq, natCast (mul_self_nonneg _), natCast den.le]
  have sign : 0 ≤ wheelExact p α β x y S ↔ 0 ≤ wheelNum α β x y S := wheelExact_nonneg_iff ne
  cases r with
  | trunc => exact roundRoot_trunc_eq denNat square sign
  | floor => exact roundRoot_floor_eq denNat square sign

/-- R182's wheel code is the exact image, fitted and rounded once. -/
theorem wheelCode_eq_roundFit : wheelCode p α β x y S = roundFit p (-16384) 16384 (wheelExact p α β x y S) := by
  rcases wheelCode_cases p α β x y S with ⟨fits, code⟩ | ⟨overflows, ⟨policy, code⟩ | ⟨policy, code⟩⟩
  · rw [wheelNum_fits_iff ne] at fits
    rw [code, roundRoot_eq_roundExact ne, roundFit_inside (fullScale_within fits).1 (fullScale_within fits).2]
  all_goals rw [← not_le, wheelNum_fits_iff ne, not_le] at overflows
  · rw [code, roundFit_error policy (fullScale_beyond overflows)]
  · have negative : wheelExact p α β x y S < 0 ↔ wheelNum α β x y S < 0 := by
      rw [← not_le, wheelExact_nonneg_iff ne, not_le]
    rw [code, roundFit_beyond_clamp policy overflows (wheelExact_pos_iff ne) negative]

end WheelCode

/-! ### The polar algorithm (R180) -/

/-- Unit direction of the angle before the turn by `pi / 4`. -/
theorem driveAngle_add_cos_sin (ne : ¬(x = 0 ∧ y = 0)) :
    Real.cos (driveAngle x y + Real.pi / 4) = x / √(x ^ 2 + y ^ 2) ∧
    Real.sin (driveAngle x y + Real.pi / 4) = y / √(x ^ 2 + y ^ 2) := by
  have sum := sum_sq_pos ne
  have distance : 0 < √((x : ℝ) ^ 2 + y ^ 2) := Real.sqrt_pos.2 sum
  have unit : |(x : ℝ) / √(x ^ 2 + y ^ 2)| ≤ 1 := by
    rw [abs_div, abs_of_pos distance, div_le_one distance]
    exact Real.abs_le_sqrt (by nlinarith)
  obtain ⟨lower, upper⟩ := abs_le.1 unit
  have height : √(1 - ((x : ℝ) / √(x ^ 2 + y ^ 2)) ^ 2) = |(y : ℝ)| / √(x ^ 2 + y ^ 2) := by
    have : 1 - ((x : ℝ) / √(x ^ 2 + y ^ 2)) ^ 2 = y ^ 2 / (x ^ 2 + y ^ 2) := by
      rw [div_pow, Real.sq_sqrt sum.le]
      field_simp
      ring
    rw [this, Real.sqrt_div (sq_nonneg _), Real.sqrt_sq_eq_abs]
  rw [driveAngle, sub_add_cancel]
  split
  · next negative =>
    have : (y : ℝ) < 0 := Int.cast_lt_zero.2 negative
    rw [Real.cos_neg, Real.sin_neg, Real.cos_arccos lower upper, Real.sin_arccos, height, abs_of_neg this, neg_div, neg_neg]
    exact ⟨rfl, rfl⟩
  · next nonneg =>
    have : (0 : ℝ) ≤ y := Int.cast_nonneg (not_lt.1 nonneg)
    rw [Real.cos_arccos lower upper, Real.sin_arccos, height, abs_of_nonneg this]
    exact ⟨rfl, rfl⟩

end Sys2Proof.Machine

namespace Sys2Proof.Machine

/-! PROOFS. SHIFT: all four codes, or the error of any wheel (44_drive R180 to R184). -/

open Sys2Proof.Claims

variable {s t : State}

/-- The row `(α, β)` of R183 for each wheel: FL, BL, BR, FR. -/
def wheelRow : Fin 4 → Int × Int
  | 0 => (1, 1)
  | 1 => (-1, 1)
  | 2 => (-1, -1)
  | 3 => (1, -1)

/-- The wheel code of SHIFT's operands. -/
def shiftCode (s : State) (c : Fin 4) : Except ErrCode Int :=
  wheelCode s.params (wheelRow c).1 (wheelRow c).2 (arg s 0) (arg s 1) (arg s 2)

/-! ### The image is the polar algorithm's -/

theorem div_mul_sqrt_half (a d : ℝ) : a / d * (√2 / 2) = a / (√2 * d) := by
  rw [Real.sqrt_div_self', div_mul_div_comm, mul_one, mul_comm d]

theorem cos_driveAngle {x y : Int} (ne : ¬(x = 0 ∧ y = 0)) :
    Real.cos (driveAngle x y) = (x + y) / √(2 * (x ^ 2 + y ^ 2)) := by
  obtain ⟨cosine, sine⟩ := driveAngle_add_cos_sin ne
  rw [← add_sub_cancel_right (driveAngle x y) (Real.pi / 4), Real.cos_sub, cosine, sine, Real.cos_pi_div_four,
    Real.sin_pi_div_four, ← add_mul, ← add_div, div_mul_sqrt_half, Real.sqrt_mul (by norm_num)]

theorem sin_driveAngle {x y : Int} (ne : ¬(x = 0 ∧ y = 0)) :
    Real.sin (driveAngle x y) = (y - x) / √(2 * (x ^ 2 + y ^ 2)) := by
  obtain ⟨cosine, sine⟩ := driveAngle_add_cos_sin ne
  rw [← add_sub_cancel_right (driveAngle x y) (Real.pi / 4), Real.sin_sub, cosine, sine, Real.cos_pi_div_four,
    Real.sin_pi_div_four, ← sub_mul, ← sub_div, div_mul_sqrt_half, Real.sqrt_mul (by norm_num)]

/-- Opposite wheels have opposite images (R183). -/
theorem wheelImage_opposite (s : State) : wheelImage s 2 = -wheelImage s 0 ∧ wheelImage s 3 = -wheelImage s 1 :=
  ⟨speedImage_neg _, speedImage_neg _⟩

/-- The first two wheels' images under the polar algorithm are the algebraic ones (R182, R183). -/
theorem wheelImage_front (ne : ¬(arg s 0 = 0 ∧ arg s 1 = 0)) :
    wheelImage s 0 = wheelExact s.params 1 1 (arg s 0) (arg s 1) (arg s 2) ∧
    wheelImage s 1 = wheelExact s.params (-1) 1 (arg s 0) (arg s 1) (arg s 2) := by
  simp only [wheelImage, wheelPercent, speedImage_eq, cos_driveAngle ne, sin_driveAngle ne, wheelExact, wheelScale, wheelNum]
  push_cast
  constructor <;> ring

/-- Each wheel's image under R180's polar algorithm is R182's algebraic one with the wheel's row (R182, R183). -/
theorem wheelImage_eq_wheelExact (ne : ¬(arg s 0 = 0 ∧ arg s 1 = 0)) (c : Fin 4) :
    wheelImage s c = wheelExact s.params (wheelRow c).1 (wheelRow c).2 (arg s 0) (arg s 1) (arg s 2) := by
  obtain ⟨image0, image1⟩ := wheelImage_front ne
  obtain ⟨opposite0, opposite1⟩ := wheelImage_opposite s
  have image2 := opposite0.trans ((congrArg Neg.neg image0).trans (wheelExact_neg ..).symm)
  have image3 := opposite1.trans ((congrArg Neg.neg image1).trans (wheelExact_neg ..).symm)
  fin_cases c
  exacts [image0, image1, image2, image3]

theorem shiftCode_eq_roundFit (ne : ¬(arg s 0 = 0 ∧ arg s 1 = 0)) (c : Fin 4) :
    shiftCode s c = roundFit s.params (-16384) 16384 (wheelImage s c) := by
  rw [shiftCode, wheelCode_eq_roundFit ne, wheelImage_eq_wheelExact ne]

/-! ### The command -/

/-- SHIFT with a zero vector fails (R184). -/
theorem exec_shift_zero (x : arg s 0 = 0) (y : arg s 1 = 0) : exec .shift s = failedWith s .domainError :=
  congrArg (commit s) (if_pos ⟨x, y⟩)

theorem exec_shift_nonzero (ne : ¬(arg s 0 = 0 ∧ arg s 1 = 0)) :
    exec .shift s = commit s (shiftWheels s.params s.block (arg s 0) (arg s 1) (arg s 2)) :=
  congrArg (commit s) (if_neg ne)

/-- SHIFT completes when every wheel has a code. -/
theorem exec_shift_ok (ne : ¬(arg s 0 = 0 ∧ arg s 1 = 0)) {n : Fin 4 → Int} (codes : ∀ c, shiftCode s c = .ok (n c)) :
    exec .shift s = speedsOnly s #v[codeOf (n 0), codeOf (n 1), codeOf (n 2), codeOf (n 3)] := by
  have wheels : shiftWheels s.params s.block (arg s 0) (arg s 1) (arg s 2) =
      .done (setSpeeds s.block (n 0) (n 1) (n 2) (n 3)) := by
    have code0 := codes 0
    have code1 := codes 1
    have code2 := codes 2
    have code3 := codes 3
    simp only [shiftCode, wheelRow] at code0 code1 code2 code3
    simp only [shiftWheels, code0, code1, code2, code3]
  rw [exec_shift_nonzero ne, wheels, setSpeeds_eq]
  rfl

/-- One wheel without a code fails the whole command (R184, R243). -/
theorem exec_shift_error (ne : ¬(arg s 0 = 0 ∧ arg s 1 = 0)) {c : Fin 4} {e : ErrCode} (code : shiftCode s c = .error e) :
    exec .shift s = failedWith s .rangeOverflow := by
  have wheels : shiftWheels s.params s.block (arg s 0) (arg s 1) (arg s 2) = .raise .rangeOverflow := by
    unfold shiftWheels
    split
    · next code0 code1 code2 code3 =>
      have coded : ∃ n, shiftCode s c = .ok n := by
        fin_cases c
        exacts [⟨_, code0⟩, ⟨_, code1⟩, ⟨_, code2⟩, ⟨_, code3⟩]
      obtain ⟨n, ok⟩ := coded
      exact absurd (ok.symm.trans code) (by simp)
    · rfl
  rw [exec_shift_nonzero ne, wheels]
  rfl

/-- The four codes SHIFT writes, as numbers. -/
theorem exec_shift_speeds (ne : ¬(arg s 0 = 0 ∧ arg s 1 = 0)) {n : Fin 4 → Int} (codes : ∀ c, shiftCode s c = .ok (n c)) :
    ∃ v : Vector Code 4, (∀ c : Fin 4, v[c].toInt = n c) ∧ exec .shift s = speedsOnly s v := by
  refine ⟨_, fun c => ?_, exec_shift_ok ne codes⟩
  have range (c : Fin 4) := wheelCode_range ne (codes c)
  have read (c : Fin 4) : (codeOf (n c)).toInt = n c := codeOf_toInt (by linarith [range c]) (by linarith [range c])
  fin_cases c
  exacts [read 0, read 1, read 2, read 3]

/-- Inversion: a SHIFT that completed gave each wheel the rounding of its saturated image. -/
theorem exec_shift_inv (next : exec .shift s = .next t) (ok : t.block.err = .ok) (c : Fin 4) :
    t.block.spd[c].toInt = roundExact s.params.encRound (clampTo ((-16384 : Int) : ℝ) (16384 : Int) (wheelImage s c)) := by
  by_cases zero : arg s 0 = 0 ∧ arg s 1 = 0
  · rw [exec_shift_zero zero.1 zero.2] at next
    cases next
    cases ok
  · by_cases overflow : ∃ d, shiftCode s d = .error .rangeOverflow
    · obtain ⟨d, code⟩ := overflow
      rw [exec_shift_error zero code] at next
      cases next
      cases ok
    · have codes (c : Fin 4) := (roundFit_cases s.params (-16384) 16384 (wheelImage s c)).resolve_right
        fun error => overflow ⟨c, (shiftCode_eq_roundFit zero c).trans error⟩
      obtain ⟨v, speeds, completes⟩ := exec_shift_speeds zero fun c => (shiftCode_eq_roundFit zero c).trans (codes c)
      cases completes.symm.trans next
      exact speeds c

end Sys2Proof.Machine

namespace Sys2Proof.Claims

open Sys2Proof.Machine

/-- Settles O35: R182's algebraic image is the polar one, and within full scale Fit passes it. -/
theorem shiftComputesThePolarTransformExactly : Obligations.ShiftComputesThePolarTransformExactly :=
  fun _ ne within => exec_shift_speeds ne fun c => (shiftCode_eq_roundFit ne c).trans
    (roundFit_inside (fullScale_within (within c)).1 (fullScale_within (within c)).2)

/-- Settles O36: the wheel out of range has no code. -/
theorem shiftRejectsAnyWheelOutOfRange : Obligations.ShiftRejectsAnyWheelOutOfRange := by
  intro s policy ne ⟨c, beyond⟩
  exact exec_shift_error ne ((shiftCode_eq_roundFit ne c).trans (roundFit_error policy (fullScale_beyond beyond)))

/-- Settles O37: under the clamp policy every wheel has the code of its saturated image. -/
theorem shiftSaturatesUnderClamp : Obligations.ShiftSaturatesUnderClamp := by
  intro s policy ne
  obtain ⟨v, speeds, completes⟩ := exec_shift_speeds ne fun c => (shiftCode_eq_roundFit ne c).trans (roundFit_clamp policy)
  exact ⟨v, fun c => by simpa using speeds c, completes⟩

/-- Settles O38: the images are opposite, and Fit and Round toward zero are odd. -/
theorem shiftNegatesOppositeWheelsUnderTrunc : Obligations.ShiftNegatesOppositeWheelsUnderTrunc := by
  intro s t trunc next ok
  have code := exec_shift_inv next ok
  have odd (x : ℝ) : roundExact .trunc (clampTo ((-16384 : Int) : ℝ) (16384 : Int) (-x)) =
      -roundExact .trunc (clampTo ((-16384 : Int) : ℝ) (16384 : Int) x) := by
    rw [Int.cast_neg, clampTo_neg (by norm_num), roundExact_trunc_neg]
  rw [trunc] at code
  obtain ⟨back, front⟩ := wheelImage_opposite s
  constructor
  · exact (code 2).trans (by rw [back, odd]; exact congrArg Neg.neg (code 0).symm)
  · exact (code 3).trans (by rw [front, odd]; exact congrArg Neg.neg (code 1).symm)

/-- Settles O16: both commands check their operands before anything else. -/
theorem zeroWidthAndZeroVectorRaiseDomainError : Obligations.ZeroWidthAndZeroVectorRaiseDomainError :=
  ⟨fun _ => exec_enc_zeroWidth, fun _ => exec_shift_zero⟩

end Sys2Proof.Claims

namespace Sys2Proof.Machine

/-! PROOFS. The errors of FGET, FSET and FID, and FNEW: its words, the store it refuses and the frame it creates
(41_frame R120 to R124). -/

open Sys2Proof.Claims

variable {s : State} {code : Word} {sel idx n : Nat}

/-! ### The first check that fails gives the error (R120 to R123, 60_exceptions R243) -/

theorem exec_fget_noStore (idx : Nat) (unnamed : store? sel = none) :
    exec (.fget sel idx) s = failedWith s .illegalCommand := by
  simp only [exec, execFget, unnamed]
  rfl

theorem exec_fget_noByte {st : Store} (named : store? sel = some st) (outside : 8 ≤ idx) :
    exec (.fget sel idx) s = failedWith s .indexOutOfBounds := by
  simp only [exec, execFget, named, byteIndex?_ge outside]
  rfl

theorem exec_fset_noStore (idx : Nat) (unnamed : byteStore? sel = none) :
    exec (.fset sel idx) s = failedWith s .illegalCommand := by
  simp only [exec, execFset, unnamed]
  rfl

theorem exec_fset_noByte {st : ByteStore} (named : byteStore? sel = some st) (outside : 8 ≤ idx) :
    exec (.fset sel idx) s = failedWith s .indexOutOfBounds := by
  simp only [exec, execFset, named, byteIndex?_ge outside]
  rfl

theorem exec_fset_noValue {st : ByteStore} (named : byteStore? sel = some st) (inside : idx < 8)
    (value : argByte? s.block 0 = none) : exec (.fset sel idx) s = failedWith s .rangeOverflow := by
  simp only [exec, execFset, named, byteIndex?_lt inside, value]
  rfl

theorem exec_fid_noStore (unnamed : store? sel = none) : exec (.fid sel) s = failedWith s .illegalCommand := by
  simp only [exec, execFid, unnamed]
  rfl

/-! ### FNEW (R124) -/

/-- A class F word is the number its parts add up to (R81). -/
theorem ofNat_eq_wordF (aligned : code.toNat % 128 = 0) (selLt : sel < 8) (nLt : n < 16) :
    BitVec.ofNat 32 (code.toNat + sel * 16 + n) = wordF code sel n := by
  rw [← toNat_wordF aligned selLt nLt, BitVec.ofNat_toNat, BitVec.setWidth_eq]

/-- A class S word is the number its parts add up to (R81). -/
theorem ofNat_eq_wordS (aligned : code.toNat % 128 = 0) (selLt : sel < 8) :
    BitVec.ofNat 32 (code.toNat + 16 * sel) = wordS code sel := by
  rw [wordS_eq_wordF, ← ofNat_eq_wordF aligned selLt (by decide), mul_comm, add_zero]

theorem toNat_argIdent (b : Block) : (argIdent b).toNat = b.arg[1].toNat * 65536 + b.arg[0].toNat :=
  toNat_append_eq_add _ _

theorem exec_fnew_other (other : sel ≠ 1) : exec (.fnew sel) s = failedWith s .illegalCommand :=
  congrArg (commit s) (if_neg other)

theorem exec_fnew_rxf (s : State) :
    exec (.fnew 1) s = .next (s.setBlock ((s.block.setRxf (Frame.zero (argIdent s.block))).setErr .ok)) := rfl

end Sys2Proof.Machine

namespace Sys2Proof.Claims

open Sys2Proof.Machine

/-- Settles O24: a word of the statement is the encoding of its command. -/
theorem fnewCreatesAZeroFilledFrame : Obligations.FnewCreatesAZeroFilledFrame := by
  refine ⟨fun sel fits => ?_, fun _ _ => exec_fnew_other, fun s => ⟨_, toNat_argIdent s.block, exec_fnew_rxf s⟩⟩
  rw [← decode_encode (i := .fnew sel) (decide_eq_true fits)]
  exact congrArg decode (ofNat_eq_wordS (code := 0x13000000) rfl fits)

/-- Settles O22: each command's checks of `sel`, `idx` and the value, in turn. -/
theorem frameFieldErrorsInOrder : Obligations.FrameFieldErrorsInOrder := by
  intro s sel idx
  refine ⟨fun sel7 => exec_fget_noStore idx (store?_none sel7), fun sel6 idx8 => ?_,
    fun sel2 => exec_fset_noStore idx (byteStore?_none sel2), fun sel1 idx8 => ?_, fun sel1 idx7 outside => ?_,
    fun sel7 => exec_fid_noStore (store?_none sel7)⟩
  · exact exec_fget_noByte (store?_eq_storeOf ⟨sel, by omega⟩) idx8
  · obtain ⟨st, named, -⟩ := byteStore?_eq_some (sel := ⟨sel, by omega⟩) sel1
    exact exec_fset_noByte named idx8
  · obtain ⟨st, named, -⟩ := byteStore?_eq_some (sel := ⟨sel, by omega⟩) sel1
    exact exec_fset_noValue named idx7 (argByte?_eq_none outside)

end Sys2Proof.Claims

namespace Sys2Proof.Machine

/-! PROOFS. OFFS and ABSORB: their words, the address both refuse and what they write, and what a step does to telemetry
(42_channel R140 to R146, 44_drive R189, 45_ports R225). -/

open Sys2Proof.Claims

variable {p : Params} {b b' : Block} {s t : State} {code : Word} {a n : Nat}

/-! ### Class A words (R81, R82) -/

/-- A class A word is the number its parts add up to (R81). -/
theorem ofNat_eq_wordA (aligned : code.toNat % 128 = 0) (nLt : n < 16) :
    BitVec.ofNat 32 (code.toNat + n) = wordA code n := by
  rw [wordA_eq_wordF, ← ofNat_eq_wordF aligned (by decide) nLt, zero_mul, add_zero]

/-- The number of a class A command's word decodes to the command. -/
theorem decode_ofNat_classA {i : Instr} (aligned : code.toNat % 128 = 0) (nLt : n < 16) (wf : i.WellFormed)
    (word : encode i = wordA code n) : decode (BitVec.ofNat 32 (code.toNat + n)) = .ok i := by
  rw [ofNat_eq_wordA aligned nLt, ← word, decode_encode wf]

/-! ### The motor address (R140) -/

theorem exec_offs_noChannel (outside : ¬(1 ≤ a ∧ a ≤ 4)) : exec (.offs a) s = failedWith s .indexOutOfBounds := by
  simp only [exec, execOffs, channel?_none outside]
  rfl

theorem exec_absorb_noChannel (outside : ¬(1 ≤ a ∧ a ≤ 4)) : exec (.absorb a) s = failedWith s .indexOutOfBounds := by
  simp only [exec, execAbsorb, channel?_none outside]
  rfl

/-! ### OFFS (R141) -/

/-- OFFS of a motor address writes the channel's two offsets. -/
theorem exec_offs_inside (inside : 1 ≤ a ∧ a ≤ 4) : exec (.offs a) s =
    resultsOnly s ((s.block.res.set 0 (codeOf (2 * (a - 1) : Nat))).set 1 (codeOf (2 * (a - 1) + 1 : Nat))) := by
  simp only [exec, execOffs, channel?_inside inside]
  rfl

/-! ### ABSORB (R145, R146) -/

theorem exec_absorb_match {c : Fin 4} (own : s.block.rxf.id = tidOf s.params c) : exec (.absorb (c.val + 1)) s =
    .next (s.setBlock ((((s.block.setTlf c s.block.rxf).setTlmv c true).setRes 0 1).setErr .ok)) := by
  simp only [exec, execAbsorb, show channel? (c.val + 1) = some c from channel?_addressOf c, absorb_match _ own]
  rfl

theorem exec_absorb_miss {c : Fin 4} (other : s.block.rxf.id ≠ tidOf s.params c) :
    exec (.absorb (c.val + 1)) s = resultsOnly s (s.block.res.set 0 0) := by
  simp only [exec, execAbsorb, show channel? (c.val + 1) = some c from channel?_addressOf c, absorb_miss _ other]
  rfl

/-! ### What a step does to telemetry (R145, R189, R225) -/

/-- Telemetry goes from `b` to `b'` unchanged, or with the RXF of `b'` taken by the channel whose identifier it has. -/
def KeepsOrTakesTelemetry (p : Params) (b b' : Block) : Prop :=
  (b'.tlf = b.tlf ∧ b'.tlmv = b.tlmv) ∨
    ∃ c : Fin 4, b'.rxf.id = tidOf p c ∧ b'.tlf = b.tlf.set c b'.rxf ∧ b'.tlmv = b.tlmv.set c true

theorem Effect.keepsOrTakesTelemetry (effect : Effect p b b') : KeepsOrTakesTelemetry p b b' := by
  cases effect with
  | byteWritten st i v => exact .inl ⟨memWrite_tlf b st i v, memWrite_tlmv b st i v⟩
  | absorbed c v own => exact .inr ⟨c, own, rfl, rfl⟩
  | _ => exact .inl ⟨rfl, rfl⟩

theorem keepsOrTakesTelemetry_deliver (p : Params) (d : Delivery) (b : Block) : KeepsOrTakesTelemetry p b (deliver p d b) := by
  by_cases own : ∃ c : Fin 4, d.id = tidOf p c
  · obtain ⟨c, own⟩ := own
    rw [deliver_match b own]
    exact .inr ⟨c, own, rfl, rfl⟩
  · rw [deliver_miss b (not_exists.1 own)]
    exact .inl ⟨rfl, rfl⟩

/-- No step but reset writes telemetry in any other way: only commands and deliveries write it at all. -/
theorem StepEffect.keepsOrTakesTelemetry (effect : StepEffect s t) (noReset : s.env.schedule.head? ≠ some .resetInput) :
    KeepsOrTakesTelemetry s.params s.block t.block := by
  cases effect with
  | quiet _ block _ => rw [block]; exact .inl ⟨rfl, rfl⟩
  | accepted _ _ _ block _ => rw [block]; exact .inl ⟨rfl, rfl⟩
  | delivered _ d _ _ block _ => rw [block]; exact keepsOrTakesTelemetry_deliver s.params d s.block
  | reset turn _ _ _ => exact absurd turn noReset
  | statusWritten w _ _ block _ => rw [block, writeStatus_eq]; exact .inl ⟨rfl, rfl⟩
  | argWritten i v _ _ block _ => rw [block]; exact .inl ⟨rfl, rfl⟩
  | illegal w _ _ block _ => rw [block]; exact .inl ⟨rfl, rfl⟩
  | command w i _ _ _ body _ => exact body.keepsOrTakesTelemetry

end Sys2Proof.Machine

namespace Sys2Proof.Claims

open Sys2Proof.Machine

/-- Settles O25: the address names its channel, and both offsets fit a register. -/
theorem offsWritesTheBytePair : Obligations.OffsWritesTheBytePair := by
  refine ⟨fun a fits => decode_ofNat_classA (code := 0x20000000) rfl fits (decide_eq_true fits) rfl,
    fun _ _ => exec_offs_noChannel, fun s a lower upper => ⟨_, _, ?_, ?_, exec_offs_inside ⟨lower, upper⟩⟩⟩
  · rw [codeOf_toInt (by omega) (by omega)]; omega
  · rw [codeOf_toInt (by omega) (by omega)]; omega

/-- Settles O32: by the two outcomes of the identifier filter. -/
theorem absorbTakesOnlyItsOwnIdentifier : Obligations.AbsorbTakesOnlyItsOwnIdentifier :=
  ⟨fun _ fits => decode_ofNat_classA (code := 0x22000000) rfl fits (decide_eq_true fits) rfl,
    fun _ _ => exec_absorb_noChannel, fun _ _ => ⟨exec_absorb_match, exec_absorb_miss⟩⟩

/-- Settles O57: the channel is the one that took RXF; where telemetry is unchanged, any channel will do. -/
theorem atMostOneChannelTakesAFrame : Obligations.AtMostOneChannelTakesAFrame := by
  intro s t next noReset
  rcases (step_cases next).keepsOrTakesTelemetry noReset with ⟨tlf, tlmv⟩ | ⟨c, own, tlf, tlmv⟩
  · rw [tlf, tlmv]
    exact ⟨0, fun _ _ => ⟨rfl, rfl⟩, .inl ⟨rfl, rfl⟩⟩
  · rw [tlf, tlmv]
    refine ⟨c, fun d other => ?_, .inr ⟨Vector.getElem_set_self c.isLt, own, Vector.getElem_set_self c.isLt⟩⟩
    have apart : c.val ≠ d.val := Fin.val_ne_of_ne other.symm
    exact ⟨Vector.getElem_set_ne c.isLt d.isLt apart, Vector.getElem_set_ne c.isLt d.isLt apart⟩

end Sys2Proof.Claims

namespace Sys2Proof.Machine

/-! PROOFS. TANG, TRPM, TCUR and TTMP: their words, the address all four refuse and the fields they decode
(43_telemetry R160 to R164). -/

open Sys2Proof.Claims

variable {s : State} {a : Nat}

/-! ### The words (R161 to R164) -/

/-- The numbers of the four class A words of a field value decode to the four reads. -/
theorem decode_ofNat_telemetry (fits : a < 16) :
    decode (BitVec.ofNat 32 (0x30000000 + a)) = .ok (.tang a) ∧ decode (BitVec.ofNat 32 (0x31000000 + a)) = .ok (.trpm a) ∧
    decode (BitVec.ofNat 32 (0x32000000 + a)) = .ok (.tcur a) ∧ decode (BitVec.ofNat 32 (0x33000000 + a)) = .ok (.ttmp a) :=
  ⟨decode_ofNat_classA (code := 0x30000000) rfl fits (decide_eq_true fits) rfl,
    decode_ofNat_classA (code := 0x31000000) rfl fits (decide_eq_true fits) rfl,
    decode_ofNat_classA (code := 0x32000000) rfl fits (decide_eq_true fits) rfl,
    decode_ofNat_classA (code := 0x33000000) rfl fits (decide_eq_true fits) rfl⟩

/-! ### The address check (R140) -/

/-- A telemetry read of an address without a channel fails, whatever field it is to decode. -/
theorem commit_readTelemetry_noChannel (outside : ¬(1 ≤ a ∧ a ≤ 4)) (field : Fin 4 → Code) :
    commit s (readTelemetry s.block a field) = failedWith s .indexOutOfBounds := by
  rw [readTelemetry, channel?_none outside]
  rfl

theorem exec_telemetry_noChannel (outside : ¬(1 ≤ a ∧ a ≤ 4)) :
    ∀ i ∈ [Instr.tang a, .trpm a, .tcur a, .ttmp a], exec i s = failedWith s .indexOutOfBounds := by
  intro i mem
  simp only [List.mem_cons, List.not_mem_nil, or_false] at mem
  rcases mem with rfl | rfl | rfl | rfl
  all_goals exact commit_readTelemetry_noChannel outside _

/-! ### The decoded values (R61, R104, R160) -/

/-- A joined code is its high byte, signed, times 256 plus its low byte, unsigned (R104). -/
theorem joinF_toInt_toNat (h l : Byte) : (joinF h l).toInt = h.toInt * 256 + l.toNat := by
  rw [joinF, BitVec.toInt_append, mul_comm]
  rfl

/-- A 16-bit field of a store is big-endian: its first byte carries the sign (R61). -/
theorem memRead16_toInt (b : Block) (st : Store) (k : Fin 4) :
    (memRead16 b st k).toInt = (b.frame st).b[offsetHi k].toInt * 256 + (b.frame st).b[offsetLo k].toNat :=
  joinF_toInt_toNat _ _

/-- A flag in a 16-bit register is 1 or 0 (R161). -/
theorem codeOfFlag_toInt (v : Bool) : (codeOfFlag v).toInt = if v then 1 else 0 := by
  cases v <;> rfl

end Sys2Proof.Machine

namespace Sys2Proof.Claims

open Sys2Proof.Machine

/-- Settles O33: the four reads share one body and differ in the field of the channel's frame that they decode. -/
theorem telemetryReadsDecodeTheFrame : Obligations.TelemetryReadsDecodeTheFrame :=
  ⟨fun _ => decode_ofNat_telemetry, fun _ _ => exec_telemetry_noChannel, fun s c =>
    ⟨_, _, _, _, _, memRead16_toInt s.block (.tlf c) 0, memRead16_toInt s.block (.tlf c) 1,
      memRead16_toInt s.block (.tlf c) 2, codeOfByte_toInt _, codeOfFlag_toInt _, commit_readTelemetry s c _,
      commit_readTelemetry s c _, commit_readTelemetry s c _, commit_readTelemetry s c _⟩⟩

end Sys2Proof.Claims

namespace Sys2Proof.Machine

/-! PROOFS. SHIFT's codes depend on the direction alone (44_drive R181); the frame SEND assembles and latches (R187, R188);
the two outcomes of FDBK (R189, R190). -/

open Sys2Proof.Claims

variable {s s' t t' : State} {p : Params} {x y k : Int}

/-! ### Scaling SHIFT's vector (R181) -/

/-- `D * sqrt(M)` of R182 scales with the vector. -/
theorem wheelScale_scaled (nonneg : 0 ≤ k) : wheelScale p (k * x) (k * y) = k * wheelScale p x y := by
  have root : √(2 * ((k * x) ^ 2 + (k * y) ^ 2) : ℝ) = k * √(2 * (x ^ 2 + y ^ 2)) := by
    rw [mul_pow, mul_pow, ← mul_add, mul_left_comm, Real.sqrt_mul (sq_nonneg _), Real.sqrt_sq (Int.cast_nonneg nonneg)]
  rw [wheelScale, Int.cast_mul, Int.cast_mul, root, mul_left_comm, wheelScale]

/-- `N` of R182 scales with the vector as well, so the quotient stays. -/
theorem wheelExact_scaled (pos : 0 < k) (α β S : Int) : wheelExact p α β (k * x) (k * y) S = wheelExact p α β x y S := by
  have numerator : wheelNum α β (k * x) (k * y) S = k * wheelNum α β x y S := by
    simp only [wheelNum]
    ring
  rw [wheelExact, numerator, wheelScale_scaled pos.le, Int.cast_mul, mul_div_mul_left _ _ (Int.cast_ne_zero.2 pos.ne'),
    wheelExact]

theorem scaled_eq_zero_iff (pos : 0 < k) : k * x = 0 ∧ k * y = 0 ↔ x = 0 ∧ y = 0 := by
  simp [pos.ne']

theorem wheelCode_scaled (pos : 0 < k) (ne : ¬(x = 0 ∧ y = 0)) (α β S : Int) :
    wheelCode p α β (k * x) (k * y) S = wheelCode p α β x y S := by
  rw [wheelCode_eq_roundFit ne, wheelCode_eq_roundFit (mt (scaled_eq_zero_iff pos).1 ne), wheelExact_scaled pos]

/-- SHIFTs of two nonzero vectors with the same wheel codes leave the same speeds and ERR. -/
theorem exec_shift_congr (ne : ¬(arg s 0 = 0 ∧ arg s 1 = 0)) (ne' : ¬(arg s' 0 = 0 ∧ arg s' 1 = 0))
    (codes : ∀ c, shiftCode s' c = shiftCode s c) (speeds : s'.block.spd = s.block.spd)
    (next : exec .shift s = .next t) (next' : exec .shift s' = .next t') :
    t'.block.spd = t.block.spd ∧ t'.block.err = t.block.err := by
  by_cases coded : ∀ c, ∃ n, shiftCode s c = .ok n
  · choose n coded using coded
    cases (exec_shift_ok ne coded).symm.trans next
    cases (exec_shift_ok ne' fun c => (codes c).trans (coded c)).symm.trans next'
    exact ⟨rfl, rfl⟩
  · obtain ⟨c, uncoded⟩ := not_forall.1 coded
    cases code : shiftCode s c with
    | ok n => exact absurd ⟨n, code⟩ uncoded
    | error e =>
      cases (exec_shift_error ne code).symm.trans next
      cases (exec_shift_error ne' ((codes c).trans code)).symm.trans next'
      exact ⟨speeds, rfl⟩

/-- SHIFT of a positive multiple of the direction with the same speed leaves the same speeds and ERR (R181). -/
theorem exec_shift_scaled (pos : 0 < k) (params : s'.params = s.params) (speeds : s'.block.spd = s.block.spd)
    (x : arg s' 0 = k * arg s 0) (y : arg s' 1 = k * arg s 1) (speed : arg s' 2 = arg s 2)
    (next : exec .shift s = .next t) (next' : exec .shift s' = .next t') :
    t'.block.spd = t.block.spd ∧ t'.block.err = t.block.err := by
  have zero_iff : arg s' 0 = 0 ∧ arg s' 1 = 0 ↔ arg s 0 = 0 ∧ arg s 1 = 0 := by
    rw [x, y, scaled_eq_zero_iff pos]
  by_cases zero : arg s 0 = 0 ∧ arg s 1 = 0
  · obtain ⟨x', y'⟩ := zero_iff.2 zero
    cases (exec_shift_zero zero.1 zero.2).symm.trans next
    cases (exec_shift_zero x' y').symm.trans next'
    exact ⟨speeds, rfl⟩
  · refine exec_shift_congr zero (mt zero_iff.1 zero) (fun c => ?_) speeds next next'
    rw [shiftCode, x, y, speed, params, wheelCode_scaled pos zero, shiftCode]

/-! ### SEND (R187, R188) -/

/-- The bytes Assemble writes at a channel's offsets are the two bytes of its code (R187). -/
theorem splitCode_spd (b : Block) (c : Fin 4) :
    splitCode b.spd[c] = ((assemble b)[offsetHi c], (assemble b)[offsetLo c]) := by
  rw [← frameCode_assemble b 0 c, frameCode, splitCode_joinF]

theorem exec_send_busy (pending : s.block.txpend = true) : exec .send s = failedWith s .txBusy :=
  congrArg (commit s) (if_pos pending)

theorem exec_send_free (free : s.block.txpend = false) : exec .send s = .next { s with block := { s.block with
    txf := { s.block.txf with b := assemble s.block }, txl := ⟨s.params.txId, assemble s.block⟩, txpend := true,
    err := .ok } } := by
  simp only [exec, execSend, free, Bool.false_eq_true, if_false, commit_done]
  generalize assemble s.block = B -- so that `rfl` compares the records without running the loop
  rfl

/-! ### FDBK (R189, R190) -/

theorem exec_fdbk_match {c : Fin 4} (own : s.block.rxf.id = tidOf s.params c) : exec .fdbk s = .next (s.setBlock
    ((((s.block.setTlf c s.block.rxf).setTlmv c true).setRes 0 (BitVec.ofNat 16 (c.val + 1))).setErr .ok)) := by
  simp only [exec, execFdbk, dispatch_match _ own, if_neg (addressOf_ne_zero c), commit_done, codeOf, BitVec.ofInt_natCast]
  rfl

theorem exec_fdbk_miss (other : ∀ c : Fin 4, s.block.rxf.id ≠ tidOf s.params c) :
    exec .fdbk s = .next (s.setBlock (((s.block.setIdmm true).setRes 0 0).setErr .identifierMismatch)) := by
  simp only [exec, execFdbk, dispatch_miss _ other]
  rfl

end Sys2Proof.Machine

namespace Sys2Proof.Claims

open Sys2Proof.Machine

/-- Settles O39: the multiple has the same exact wheel images. -/
theorem shiftDependsOnDirectionOnly : Obligations.ShiftDependsOnDirectionOnly :=
  fun _ _ _ _ _ pos x y speed => exec_shift_scaled pos rfl rfl x y (congrArg BitVec.toInt speed)

/-- Settles O40: the bytes are those of Assemble. -/
theorem sendAssemblesAndLatchesTheFrame : Obligations.SendAssemblesAndLatchesTheFrame := by
  refine ⟨decode_encode (i := .send) rfl, fun _ => exec_send_busy, fun s free =>
    ⟨assemble s.block, fun c => ?_, exec_send_free free⟩⟩
  have bytes := splitCode_spd s.block c
  exact ⟨(congrArg (·.1.toInt) bytes).symm.trans (splitCode_high_toInt _),
    (congrArg (·.2.toInt) bytes).symm.trans (splitCode_low_toInt _)⟩

/-- Settles O41: by the two outcomes of Dispatch. -/
theorem fdbkUpdatesExactlyTheMatchingChannel : Obligations.FdbkUpdatesExactlyTheMatchingChannel :=
  ⟨decode_encode (i := .fdbk) rfl, fun _ => ⟨fun _ => exec_fdbk_match, exec_fdbk_miss⟩⟩

end Sys2Proof.Claims

namespace Sys2Proof.Machine

/-! PROOFS. What the transport's turns do: TX acceptance and RX delivery (45_ports R222 to R226, R228). -/

open Sys2Proof.Claims

variable {s : State} {rest : List Agent} {d : Delivery} {ds : List Delivery}

/-- The step is the turn of the first agent of the schedule, taken with that turn used up (R220). -/
theorem step_agentTurn {a : Agent} (turn : s.env.schedule = a :: rest) :
    step s = agentTurn a { s with env := { s.env with schedule := rest } } := by
  rw [step, nextStep, turn, Env.popSchedule, turn]
  rfl

/-! ### TX acceptance (R221, R222, R228) -/

theorem txTurn_pending (pending : s.block.txpend = true) : txTurn s = .next { s with
    block := { s.block with txpend := false }, env := { s.env with sent := s.env.sent ++ [s.block.txl] } } := by
  rw [txTurn, txOffer, if_pos pending]
  rfl

theorem txTurn_idle (idle : s.block.txpend = false) : txTurn s = .next s := by
  rw [txTurn, txOffer, if_neg (Bool.eq_false_iff.1 idle)]

/-! ### RX delivery (R223 to R226) -/

/-- A received frame's bytes are the delivered ones, and 0 past them (R224). -/
theorem rxFrame_byte (d : Delivery) (i : Fin 8) : (rxFrame d).b[i] = rxByte d i := by
  fin_cases i <;> rfl

theorem step_rx (turn : s.env.schedule = .rx :: rest) (pending : s.env.rx = d :: ds) :
    step s = .next { s with
      block := deliver s.params d s.block, env := { s.env with schedule := rest, rx := ds } } := by
  rw [step_agentTurn turn, agentTurn, rxTurn, pending]
  simp only [State.setBlock, State.setEnv, Env.popRx, pending, List.tail_cons]

end Sys2Proof.Machine

namespace Sys2Proof.Claims

open Sys2Proof.Machine

/-- Settles O43: by the two outcomes of a delivery. -/
theorem rxDeliveryStoresAndDispatches : Obligations.RxDeliveryStoresAndDispatches := by
  refine fun s rest d ds turn pending => ⟨rxFrame d, rfl, rxFrame_byte d, fun c own => ?_, fun other => ?_⟩
  · rw [step_rx turn pending, deliver_match _ own]
    rfl
  · rw [step_rx turn pending, deliver_miss _ other]
    rfl

/-- Settles O42: the step is the transmit side's turn, which rests on TXPEND. -/
theorem txAcceptanceTakesThePendingFrame : Obligations.TxAcceptanceTakesThePendingFrame :=
  fun _ _ turn => ⟨fun pending => (step_agentTurn turn).trans (txTurn_pending pending),
    fun idle => (step_agentTurn turn).trans (txTurn_idle idle)⟩

end Sys2Proof.Claims

namespace Sys2Proof.Machine

/-! PROOFS. No command reads ERR, so a failed command leaves no trace in the next one (60_exceptions R244, R245). -/

variable {b : Block} {e : ErrCode} {r r' u u' : Result}

/-! ### Bodies that end alike whatever ERR held -/

/-- The body `r'`, run on `b` with `e` in ERR, leaves the block that the body `r`, run on `b`, leaves. -/
def Result.EndsAs (b : Block) (e : ErrCode) (r' r : Result) : Prop := r'.committed (b.setErr e) = r.committed b

theorem commit_setErr {s : State} (ends : r'.EndsAs s.block e r) :
    commit (s.setBlock (s.block.setErr e)) r' = commit s r := by
  rw [commit_eq, commit_eq]
  exact congrArg (fun b => Host.Outcome.next (s.setBlock b)) ends

theorem endsAs_ite {check : Prop} [Decidable check] (ifTrue : r'.EndsAs b e r) (ifFalse : u'.EndsAs b e u) :
    (if check then r' else u').EndsAs b e (if check then r else u) := by
  split
  · exact ifTrue
  · exact ifFalse

theorem endsAs_withCode (code : Except ErrCode Int) {go go' : Int → Result} (ends : ∀ c, (go' c).EndsAs b e (go c)) :
    (withCode code go').EndsAs b e (withCode code go) := by
  cases code with
  | error _ => rfl
  | ok c => exact ends c

theorem endsAs_readTelemetry (a : Nat) (field : Fin 4 → Code) :
    (readTelemetry (b.setErr e) a field).EndsAs b e (readTelemetry b a field) := by
  unfold readTelemetry
  cases channel? a <;> rfl

theorem endsAs_shiftWheels (p : Params) (x y S : Int) :
    (shiftWheels p (b.setErr e) x y S).EndsAs b e (shiftWheels p b x y S) := by
  unfold shiftWheels
  split <;> rfl

/-! ### What the shared operations do whatever ERR held -/

@[simp] theorem argByte?_setErr (b : Block) (e : ErrCode) (k : Fin 5) : argByte? (b.setErr e) k = argByte? b k := rfl

@[simp] theorem absorb_setErr (p : Params) (c : Fin 4) (f : Frame) (b : Block) (e : ErrCode) :
    absorb p c f (b.setErr e) = ((absorb p c f b).1.setErr e, (absorb p c f b).2) := by
  unfold absorb
  split <;> rfl

@[simp] theorem dispatch_setErr (p : Params) (f : Frame) (b : Block) (e : ErrCode) :
    dispatch p f (b.setErr e) = ((dispatch p f b).1.setErr e, (dispatch p f b).2) := by
  by_cases taken : ∃ c : Fin 4, f.id = tidOf p c
  · obtain ⟨c, own⟩ := taken
    rw [dispatch_match _ own, dispatch_match _ own]
    rfl
  · have other := not_exists.1 taken
    rw [dispatch_miss _ other, dispatch_miss _ other]
    rfl

/-! ### The commands -/

theorem execJoin_setErr (s : State) (e : ErrCode) : execJoin (s.setBlock (s.block.setErr e)) = execJoin s := by
  refine commit_setErr ?_
  simp only [State.setBlock_block, argByte?_setErr]
  split <;> rfl

theorem execFset_setErr (sel idx : Nat) (s : State) (e : ErrCode) :
    execFset sel idx (s.setBlock (s.block.setErr e)) = execFset sel idx s := by
  refine commit_setErr ?_
  simp only [State.setBlock_block, argByte?_setErr]
  cases byteStore? sel with
  | none => rfl
  | some st =>
    cases byteIndex? idx with
    | none => rfl
    | some i =>
      cases argByte? s.block 0 with
      | none => rfl
      | some v => cases st <;> rfl

theorem execAbsorb_setErr (a : Nat) (s : State) (e : ErrCode) :
    execAbsorb a (s.setBlock (s.block.setErr e)) = execAbsorb a s := by
  refine commit_setErr ?_
  simp only [State.setBlock_block, State.setBlock_params, Block.setErr_rxf, absorb_setErr]
  cases channel? a <;> rfl

theorem execFdbk_setErr (s : State) (e : ErrCode) : execFdbk (s.setBlock (s.block.setErr e)) = execFdbk s := by
  refine commit_setErr ?_
  simp only [State.setBlock_block, State.setBlock_params, Block.setErr_rxf, dispatch_setErr]
  exact endsAs_ite rfl rfl

/-- ERR takes no part in what a command does, and the command overwrites it (R88, R245). -/
theorem exec_setErr (i : Instr) (s : State) (e : ErrCode) : exec i (s.setBlock (s.block.setErr e)) = exec i s := by
  cases i with
  | nop => rfl
  | enc => exact commit_setErr (endsAs_ite rfl (endsAs_withCode _ fun _ => rfl))
  | split => rfl
  | join => exact execJoin_setErr s e
  | fget sel idx =>
    refine commit_setErr ?_
    cases store? sel with
    | none => rfl
    | some st => cases byteIndex? idx <;> rfl
  | fset sel idx => exact execFset_setErr sel idx s e
  | fid sel =>
    refine commit_setErr ?_
    cases store? sel <;> rfl
  | fnew sel => exact commit_setErr (endsAs_ite rfl rfl)
  | offs a =>
    refine commit_setErr ?_
    cases channel? a <;> rfl
  | encspd => exact commit_setErr (endsAs_withCode _ fun _ => rfl)
  | absorb a => exact execAbsorb_setErr a s e
  | tang a => exact commit_setErr (endsAs_readTelemetry a _)
  | trpm a => exact commit_setErr (endsAs_readTelemetry a _)
  | tcur a => exact commit_setErr (endsAs_readTelemetry a _)
  | ttmp a => exact commit_setErr (endsAs_readTelemetry a _)
  | shift => exact commit_setErr (endsAs_ite rfl (endsAs_shiftWheels ..))
  | turn => exact commit_setErr (endsAs_withCode _ fun _ => rfl)
  | tstmv => exact commit_setErr (endsAs_withCode _ fun _ => endsAs_withCode _ fun _ => rfl)
  | send => exact commit_setErr (endsAs_ite rfl rfl)
  | fdbk => exact execFdbk_setErr s e

end Sys2Proof.Machine

namespace Sys2Proof.Claims

open Sys2Proof.Machine

/-- Settles O8: the failed command changed ERR alone, and no command reads ERR. -/
theorem reissueAfterFailureIsAsIfItNeverHappened : Obligations.ReissueAfterFailureIsAsIfItNeverHappened := by
  intro i j s t a next fails
  rw [exec_failing next fails]
  exact exec_setErr j { s with block := { s.block with arg := a } } t.block.err

end Sys2Proof.Claims

namespace Sys2Proof.Machine

/-! PROOFS. The machine right after reset (70_reset R271). -/

/-- The machine starts with an empty sent record (log 4), so its invariant is that of the block alone. -/
theorem State.Inv.reset : State.reset.Inv :=
  ⟨.reset Config.params, List.forall_mem_nil _⟩

end Sys2Proof.Machine

namespace Sys2Proof.Claims

open Sys2Proof.Machine

/-- Settles O52: a block after reset meets the invariant for any parameters, and nothing has been sent yet. -/
theorem invariantHoldsAfterReset : Obligations.InvariantHoldsAfterReset :=
  ⟨.reset, .reset⟩

/-- Settles O44: the turn of reset replaces the block by `Block.reset`, whose elements compute to R271's values. -/
theorem resetSetsEveryElement : Obligations.ResetSetsEveryElement := by
  intro s rest turn
  refine ⟨_, step_resetInput turn, ?params, ?sent, ?block⟩
  case params => rfl
  case sent => rfl
  case block => rfl

end Sys2Proof.Claims
